-- ==== Sys2Proof/Word.lean ====
section
/-! DEFINITION. The word types of the actuator-bus core (00_scope.md R6). -/

namespace Sys2Proof

/-- A byte: 8 bits (R6). Every register number, packet and line event of the core is made of bytes. -/
abbrev Byte := BitVec 8

/-- A 16-bit register (`BAUDDIV`, `SETTLE`, `POLL_LIMIT`, `pollcnt`). -/
abbrev Half := BitVec 16

/-- A 32-bit register (`TIMEOUT`, `VAL`, `RESULT`, `wait_cnt`) and the data of a host register access. -/
abbrev Word := BitVec 32

end Sys2Proof
end

