-- ==== Sys2Proof/Config.lean ====
section
/-! DEFINITION. The implementation parameters of 00_scope.md R5, and the values the spec leaves free. -/

namespace Sys2Proof.Config

/-- `BROADCAST_ID` (R5, R41): the bus address that reaches every actuator and elicits no reply. -/
def broadcastId : Byte := 0xFE#8

/-- The one bus address that is neither addressed nor broadcast (R41). -/
def noId : Byte := 0xFF#8

/-- `HEADER` (R5, R63): each of the two fixed header bytes of a packet. -/
def header : Byte := 0xFF#8

/-- `MAX_PARAMS` (R5, R103, D6): the largest parameter count of a packet. -/
def maxParams : Nat := 14

/-- `MAX_FRAME` (R5): the largest packet in bytes, `MAX_PARAMS + 6`. -/
def maxFrame : Nat := 20

/-- `RXQ_DEPTH` (R5, R37, D11): the depth of the receive queue in bytes. -/
def rxqDepth : Nat := 32

/-- `SWEEP_MAX_DEG` (R5, D8): the upper end of the full sweep of positional mode, in degrees. -/
def sweepMaxDeg : Nat := 300

/-- The code of the READ instruction packet (R66). -/
def readCode : Byte := 0x02#8

/-- The code of the immediate WRITE instruction packet (R66). -/
def writeCode : Byte := 0x03#8

/-- The code of the staged write, REG_WRITE (R66). -/
def regWriteCode : Byte := 0x04#8

/-- `ACTION_CODE` (K4): the code of the trigger. The source's three mentions agree on 0x04, the code of
REG_WRITE (R66, R71). -/
def actionCode : Byte := 0x04#8

/-- The two values of `TIE_RULE` (R117, D7). -/
inductive TieRule where
  /-- `floor(q + 1/2)` -/
  | halfUp
  /-- `ceil(q - 1/2)` -/
  | halfDown
deriving DecidableEq, Repr

/-- `TIE_RULE` (R5, K3): the spec decides half up (D7); log entry 8. -/
def tieRule : TieRule := .halfUp

/-- `F_CLK` (R5: OPEN), the clock frequency in hertz. It has no value here: every statement holds for every
clock. Only the reset values of `BAUDDIV` and `SETTLE` use it (log entry 4). -/
opaque fClk : Nat

/-- FREE VALUE: the content of an actuator register nobody has told the model (R57, R46), for the n-th such
byte read (log entry 12). -/
opaque freeByte : Nat → Byte

/-- FREE VALUE: the n-th choice between two outcomes the source leaves open for an actuator: whether the reply
to an ID change carries the new ID (K22), and whether a staged write survives an immediate write to the same
register (N10) (log entries 13 and 16). -/
opaque freeBit : Nat → Bool

/-- FREE VALUE: what the line carries when several actuators reply at once (K12, K20, R56), and the reply to a
READ whose count fits no length byte (R53, R65), any number of bytes (log entries 14 and 30). -/
opaque freeBytes : Nat → List Byte

/-- FREE VALUE: how many bytes after the first an actuator passes over when the bytes on the line are no packet (log
entry 31). -/
opaque lostBytes : Nat → Nat

/-- FREE VALUE: `pollcnt` after it has counted past its 16 bits (R35 gives it the values 0 to 65535 and says
nothing of the next poll) (log entry 7). -/
opaque freeCount : Nat → Half

/-- Reset value of `BAUDDIV`: `round(F_CLK / 1,000,000)` (R13, R216), half up as R117 rounds; log entry 4. -/
def bauddivReset : Half := BitVec.ofNat 16 ((2 * fClk + 1000000) / 2000000)

/-- Reset value of `SETTLE`: `ceil(20e-6 * F_CLK)`, that is `ceil(F_CLK / 50000)` (R14, R216); log entry 4. -/
def settleReset : Half := BitVec.ofNat 16 ((fClk + 49999) / 50000)

end Sys2Proof.Config
end

