-- ==== Sys2Proof/Syntax.lean ====
section
/-! DEFINITION. The instructions: one constructor per row of spec/opcode_table.json. -/

namespace Sys2Proof

/-- What the agents of the machine execute. The 18 host operations and the reserved opcodes (30_encoding.md
R75, R76) are executed by the core when the host writes `OP`: their operands stand in the command registers
(R74), so they carry none. The instruction packets (`ipkt…`, R69 to R71, R73) are executed by the actuators on
the line (20_memory.md R52 to R56). A status packet (`spkt`, R62) is executed by the core's decoder (R104). -/
inductive Instr where
  /-- `LINK_TX`, 0x10 (R95): transmit raw bytes. -/
  | linkTx
  /-- `LINK_RX`, 0x11 (R96): receive one raw byte. -/
  | linkRx
  /-- `READ`, 0x20 (R143). -/
  | read
  /-- `WRITE`, 0x21 (R144). -/
  | write
  /-- `TRIGGER`, 0x22 (R145). -/
  | trigger
  /-- `SET_GOAL`, 0x30 (R161). -/
  | setGoal
  /-- `SET_CW_LIMIT`, 0x31 (R162). -/
  | setCwLimit
  /-- `SET_CCW_LIMIT`, 0x32 (R163). -/
  | setCcwLimit
  /-- `SET_CR_SPEED`, 0x33 (R164). -/
  | setCrSpeed
  /-- `SET_TORQUE_LIMIT`, 0x34 (R165). -/
  | setTorqueLimit
  /-- `TORQUE_ENABLE`, 0x35 (R166). -/
  | torqueEnable
  /-- `SET_MODE`, 0x36 (R167). -/
  | setMode
  /-- `SET_ID`, 0x37 (R168). -/
  | setId
  /-- `GET_POSITION`, 0x40 (R169). -/
  | getPosition
  /-- `GET_TEMPERATURE`, 0x41 (R170). -/
  | getTemperature
  /-- `GET_VOLTAGE`, 0x42 (R171). -/
  | getVoltage
  /-- `GET_CURRENT`, 0x43 (R172). -/
  | getCurrent
  /-- `IS_MOVING`, 0x44 (R173). -/
  | isMoving
  /-- `RESERVED_OP` (R76): every other value of `OP`. -/
  | reservedOp (op : Byte)
  /-- `IPKT.READ` (R69): `FF FF id 04 02 addr count chk`. -/
  | ipktRead (id addr count : Byte)
  /-- `IPKT.WRITE` (R70): `FF FF id (n+3) 03 addr d0 .. d(n-1) chk`. -/
  | ipktWrite (id addr : Byte) (data : List Byte)
  /-- `IPKT.REG_WRITE` (R70): `FF FF id (n+3) 04 addr d0 .. d(n-1) chk`. -/
  | ipktRegWrite (id addr : Byte) (data : List Byte)
  /-- `IPKT.ACTION` (R71): the constant frame `FF FF FE 02 04 FB`. -/
  | ipktAction
  /-- `SPKT` (R62): `hdr0 hdr1 id len error p0 .. p(N-1) chk`; the decoder accepts any bytes in each place
  (R63, R73 (e)), so each is kept. -/
  | spkt (hdr0 hdr1 id len error : Byte) (params : List Byte) (chk : Byte)
  /-- `IPKT.RESERVED` (R73): an instruction packet with a code other than 0x02, 0x03, 0x04. -/
  | ipktReserved (id code : Byte) (params : List Byte)
deriving DecidableEq, Repr

end Sys2Proof
end

