-- ==== Sys2Proof/WellFormed.lean ====
section
/-! DEFINITION. Which terms of `Instr` stand for words of the spec's encodings (30_encoding.md R61 to R76). -/

namespace Sys2Proof

/-- The 18 opcodes of R75. -/
def opcodeBytes : List Byte :=
  [0x10#8, 0x11#8, 0x20#8, 0x21#8, 0x22#8, 0x30#8, 0x31#8, 0x32#8, 0x33#8, 0x34#8, 0x35#8, 0x36#8, 0x37#8,
    0x40#8, 0x41#8, 0x42#8, 0x43#8, 0x44#8]

/-- An opcode is reserved when it is not in R75 (R76). -/
def isReservedOp (op : Byte) : Bool := !opcodeBytes.contains op

/-- The data of a write packet: at most 13 bytes beside the start register (R61, R70). The core emits at least one;
a packet with the start register alone is still one with a parameter (R55; log entry 30). -/
def isWriteData (data : List Byte) : Bool := decide (data.length < Config.maxParams)

/-- At most `MAX_PARAMS` parameters (R61). -/
def isParams (params : List Byte) : Bool := decide (params.length ≤ Config.maxParams)

/-- An instruction code the source does not define (R66, R73). -/
def isReservedCode (code : Byte) : Bool :=
  code != Config.readCode && code != Config.writeCode && code != Config.regWriteCode && code != Config.actionCode

/-- The terms that stand for words of the encodings: operands within what the encoding admits. On the line an
instruction packet may carry any ID and a READ any count: that the core never emits ID 255, a READ to 254 or one for
more than 14 bytes (R73, R143) bounds its operations, not the packets a `LINK_TX` can put there (log entry 30). -/
def Instr.wellFormed : Instr → Bool
  | .linkTx => true
  | .linkRx => true
  | .read => true
  | .write => true
  | .trigger => true
  | .setGoal => true
  | .setCwLimit => true
  | .setCcwLimit => true
  | .setCrSpeed => true
  | .setTorqueLimit => true
  | .torqueEnable => true
  | .setMode => true
  | .setId => true
  | .getPosition => true
  | .getTemperature => true
  | .getVoltage => true
  | .getCurrent => true
  | .isMoving => true
  | .reservedOp op => isReservedOp op
  | .ipktRead _ _ _ => true
  | .ipktWrite _ _ data => isWriteData data
  | .ipktRegWrite _ _ data => isWriteData data
  | .ipktAction => true
  | .spkt _ _ _ _ _ params _ => isParams params
  | .ipktReserved _ code params => isReservedCode code && isParams params

end Sys2Proof
end

