-- ==== Sys2Proof/Decode.lean ====
section
/-! DEFINITION. The encodings of spec/30_encoding.md and spec/41_codec.md: the checksum, the decoder (total on any
bytes, rejecting by name), the encoder, and the host's reading of a word of the opcode table. -/

namespace Sys2Proof

/-- The 8-bit sum of a byte sequence, carries out of bit 7 dropped (R101). -/
def byteSum : List Byte → Byte
  | [] => 0#8
  | b :: bs => b + byteSum bs

/-- `checksum(B)` (R101): `0xFF - (sum mod 256)`. -/
def checksum (bs : List Byte) : Byte := 0xFF#8 - byteSum bs

/-- `LEN`, the parameter count plus 2 (R65). -/
def lenByte (params : List Byte) : Byte := BitVec.ofNat 8 (params.length + 2)

/-- The bytes a checksum covers: `ID, LEN, INSTR-or-ERROR, PARAM…` (R101). -/
def coveredBytes (id code : Byte) (params : List Byte) : List Byte := id :: lenByte params :: code :: params

/-- A whole packet (R61, R62, R102): two header bytes, the covered bytes, their checksum. -/
def packet (id code : Byte) (params : List Byte) : List Byte :=
  Config.header :: Config.header :: (coveredBytes id code params ++ [checksum (coveredBytes id code params)])

/-- The opcode map of R75, row by row. -/
def opcodeTable : List (Byte × Instr) :=
  [(0x10#8, .linkTx), (0x11#8, .linkRx), (0x20#8, .read), (0x21#8, .write), (0x22#8, .trigger),
    (0x30#8, .setGoal), (0x31#8, .setCwLimit), (0x32#8, .setCcwLimit), (0x33#8, .setCrSpeed),
    (0x34#8, .setTorqueLimit), (0x35#8, .torqueEnable), (0x36#8, .setMode), (0x37#8, .setId),
    (0x40#8, .getPosition), (0x41#8, .getTemperature), (0x42#8, .getVoltage), (0x43#8, .getCurrent),
    (0x44#8, .isMoving)]

/-- What a value of `OP` names: a row of R75, else a reserved opcode (R76). All eight bits are decoded. -/
def decodeOp (op : Byte) : Instr :=
  match opcodeTable.lookup op with
  | some i => i
  | none => .reservedOp op

/-- Why bytes are no word of the encodings. -/
inductive DecodeError where
  /-- no byte at all -/
  | empty
  /-- fewer bytes than the packet's format asks for (R61, R62) -/
  | truncated
  /-- the first two bytes of an instruction packet are not `FF FF` (R63) -/
  | badHeader
  /-- `LEN` below 2: it counts at least the code and the checksum (R65) -/
  | badLength
  /-- the last byte is not the checksum (R68) -/
  | badChecksum
  /-- a whole frame of more than 14 parameters, `LEN` above 16 (R65, R73) -/
  | tooLong
  /-- the parameters do not fit the code: a READ without exactly two, a WRITE without a start register (R69, R70) -/
  | badParams
  /-- a parameterless 0x04 to an addressed ID, never emitted (R71) -/
  | triggerNotBroadcast
deriving DecidableEq, Repr

/-- The row of the opcode table an instruction packet belongs to, from its `ID`, `INSTR` and parameters
(R66, R69 to R71, R73). -/
def classify (id code : Byte) (params : List Byte) : Except DecodeError Instr :=
  if code = Config.actionCode ∧ params = [] then
    if id = Config.broadcastId then .ok .ipktAction else .error .triggerNotBroadcast
  else if code = Config.readCode then
    match params with
    | [addr, count] => .ok (.ipktRead id addr count)
    | _ => .error .badParams
  else if code = Config.writeCode then
    match params with
    | addr :: data => .ok (.ipktWrite id addr data)
    | [] => .error .badParams
  else if code = Config.regWriteCode then
    match params with
    | addr :: data => .ok (.ipktRegWrite id addr data)
    | [] => .error .badParams
  else if code = Config.actionCode then .error .badParams
  else .ok (.ipktReserved id code params)

/-- Bytes too few for the fixed part of a packet: cut short if what is there is header bytes, else no packet at all
(R63). -/
def shortFrame (bs : List Byte) : DecodeError :=
  if (bs.take 2).all (· == Config.header) then .truncated else .badHeader

/-- Reads one instruction packet (R61) from the bytes on the line, and gives the bytes after it. -/
def decodeIpkt : List Byte → Except DecodeError (Instr × List Byte)
  | h0 :: h1 :: id :: len :: code :: rest =>
    if h0 ≠ Config.header ∨ h1 ≠ Config.header then .error .badHeader
    else if len.toNat < 2 then .error .badLength
    else if rest.length < len.toNat - 2 then .error .truncated
    else
      match rest.drop (len.toNat - 2) with
      | [] => .error .truncated
      | chk :: after =>
        if chk ≠ checksum (id :: len :: code :: rest.take (len.toNat - 2)) then .error .badChecksum
        else if Config.maxParams + 2 < len.toNat then .error .tooLong
        else (classify id code (rest.take (len.toNat - 2))).map fun i => (i, after)
  | bs => .error (shortFrame bs)

/-- A status packet read by position (R62, R104): the count of parameters is the caller's, not the received
`LEN` (R72). -/
def statusPacket (bs : List Byte) (nexp : Nat) : Instr :=
  .spkt (bs.getD 0 0#8) (bs.getD 1 0#8) (bs.getD 2 0#8) (bs.getD 3 0#8) (bs.getD 4 0#8)
    ((bs.drop 5).take nexp) (bs.getD (5 + nexp) 0#8)

/-- Where bytes are read from. Instruction and status packets have one layout (R60); only the direction tells
them apart (log entry 18). -/
inductive Channel where
  /-- the host's write of `OP` (R74) -/
  | host
  /-- the line, core to actuators (R61) -/
  | lineOut
  /-- the line, actuator to core, with the parameter count the operation expects (R72) -/
  | lineIn (nexp : Nat)
deriving DecidableEq, Repr

/-- The decoder: one instruction and the bytes after it, or the name of what is wrong. -/
def decode (ch : Channel) (bs : List Byte) : Except DecodeError (Instr × List Byte) :=
  match ch with
  | .host =>
    match bs with
    | [] => .error .empty
    | op :: after => .ok (decodeOp op, after)
  | .lineOut => decodeIpkt bs
  | .lineIn nexp =>
    if bs.length < 6 + nexp then .error .truncated
    else .ok (statusPacket bs nexp, bs.drop (6 + nexp))

/-- The encoder, from the same tables: the opcode byte of a host operation (R75), the packet of a wire form
(R61, R62). -/
def encode : Instr → List Byte
  | .linkTx => [0x10#8]
  | .linkRx => [0x11#8]
  | .read => [0x20#8]
  | .write => [0x21#8]
  | .trigger => [0x22#8]
  | .setGoal => [0x30#8]
  | .setCwLimit => [0x31#8]
  | .setCcwLimit => [0x32#8]
  | .setCrSpeed => [0x33#8]
  | .setTorqueLimit => [0x34#8]
  | .torqueEnable => [0x35#8]
  | .setMode => [0x36#8]
  | .setId => [0x37#8]
  | .getPosition => [0x40#8]
  | .getTemperature => [0x41#8]
  | .getVoltage => [0x42#8]
  | .getCurrent => [0x43#8]
  | .isMoving => [0x44#8]
  | .reservedOp op => [op]
  | .ipktRead id addr count => packet id Config.readCode [addr, count]
  | .ipktWrite id addr data => packet id Config.writeCode (addr :: data)
  | .ipktRegWrite id addr data => packet id Config.regWriteCode (addr :: data)
  | .ipktAction => packet Config.broadcastId Config.actionCode []
  | .spkt hdr0 hdr1 id len error params chk => [hdr0, hdr1, id, len, error] ++ params ++ [chk]
  | .ipktReserved id code params => packet id code params

/-- The channel a form is read from. -/
def channelOf : Instr → Channel
  | .ipktRead _ _ _ => .lineOut
  | .ipktWrite _ _ _ => .lineOut
  | .ipktRegWrite _ _ _ => .lineOut
  | .ipktAction => .lineOut
  | .ipktReserved _ _ _ => .lineOut
  | .spkt _ _ _ _ _ params _ => .lineIn params.length
  | .linkTx => .host
  | .linkRx => .host
  | .read => .host
  | .write => .host
  | .trigger => .host
  | .setGoal => .host
  | .setCwLimit => .host
  | .setCcwLimit => .host
  | .setCrSpeed => .host
  | .setTorqueLimit => .host
  | .torqueEnable => .host
  | .setMode => .host
  | .setId => .host
  | .getPosition => .host
  | .getTemperature => .host
  | .getVoltage => .host
  | .getCurrent => .host
  | .isMoving => .host
  | .reservedOp _ => .host

/-- The lowest `k` bytes of a number, the least significant first. -/
def wordBytes : Nat → Nat → List Byte
  | 0, _ => []
  | k + 1, w => BitVec.ofNat 8 w :: wordBytes k (w / 256)

/-- The bytes of an instruction whose low `nbits` bits are `w`, every bit above them 0, up to the longest
instruction. -/
def tableBytes (nbits w : Nat) : List Byte := wordBytes Config.maxFrame (w % 2 ^ nbits)

/-- Bytes that open with the header are an instruction packet (R63), any others begin with an opcode: no opcode
is followed by `FF` in a table word (log entry 18). -/
def tableChannel : List Byte → Channel
  | h0 :: h1 :: _ => if h0 = Config.header ∧ h1 = Config.header then .lineOut else .host
  | _ => .host

/-- The instruction the decoder reads from an instruction whose bits are `w`, numbered as the opcode table
numbers them. -/
def decodeTableWord (nbits w : Nat) : Option Instr :=
  match decode (tableChannel (tableBytes nbits w)) (tableBytes nbits w) with
  | .ok (i, _) => some i
  | .error _ => none

end Sys2Proof
end

