-- ==== Sys2Proof/Machine/State.lean ====
section
/-! DEFINITION. The state: the core of 10_state.md, the bus environment beside it (20_memory.md R52 to R57,
kept apart from the core as R39 asks), and the interleaving still to come. -/

namespace Sys2Proof.Machine

/-- `pc` (R35): the sequencer's phase. -/
inductive Phase where
  /-- `IDLE` -/
  | idle
  /-- `TXB`: about to transmit `TXBUF[txi]` -/
  | txb
  /-- `LBD`: waiting to drain the looped byte of `TXBUF[txi]` -/
  | lbd
  /-- `SETTLE`: waiting out the settle interval -/
  | settle
  /-- `RXB`: waiting for `RXBUF[rxi]` -/
  | rxb
deriving DecidableEq, Repr

/-- `DIR` (R36): the line direction, `IN` (listening) or `OUT` (driving). -/
inductive LineDir where
  /-- `IN` -/
  | input
  /-- `OUT` -/
  | output
deriving DecidableEq, Repr

/-- The contents of an actuator's register space that are known, as (address, byte) pairs, addresses strictly
rising (R40; log entry 12). -/
abbrev Memory := List Host.Cell

/-- One conforming actuator on the line (R52 to R57): environment, not core. -/
structure Actuator where
  /-- the bus ID it answers to, which is its register 0x03 (R42, R52, R56) -/
  id : Byte
  /-- the contents known of its other registers -/
  regs : Memory
  /-- the staged write it holds: start address and data (R49, R55) -/
  staged : Option (Byte × List Byte)
  /-- the error byte its replies carry (R53, R67) -/
  error : Byte
  /-- it is of the HR family, the one with a current-sense register at 0x44 (R42) -/
  hr : Bool
  /-- it takes a range of several registers byte by byte, as program P6 of 95_test_vectors.md assumes of its
  actuator; otherwise such a range is not the source's (R44; log entry 15) -/
  flatRanges : Bool
deriving DecidableEq, Repr

/-- The line and what is on it (R8, R39): environment, not core. -/
structure Bus where
  /-- every byte the core has driven, in order: the events `line_tx` of R7 -/
  sent : List Byte
  /-- the bytes driven that the attached actuators have not acted on yet -/
  wire : List Byte
  /-- the actuators attached -/
  actuators : List Actuator
  /-- the bytes of status packets the actuators still have to deliver -/
  reply : List Byte
deriving DecidableEq, Repr

/-- One step of one agent (R8, R149). A step that is not enabled where it is scheduled changes nothing
(log entry 2). -/
inductive Event where
  /-- the host writes a register (R11); a write of register 13, `OP`, is `ACCEPT` of R149. The port is 32 bits wide
  (log entry 32) -/
  | hostWrite (reg : BitVec 7) (value : Word)
  /-- the host reads a register (R11), 32 bits wide (log entry 32) -/
  | hostRead (reg : BitVec 7)
  /-- `TX` of R149; `heard` is what the line shows the receiver while the core drives its byte: the byte
  itself on a line that echoes, nothing on one that does not, anything in a collision (R88, K20) -/
  | tx (heard : List Byte)
  /-- `DRAIN` of R149 -/
  | drain
  /-- `SETTLED` of R149: the settle interval has expired -/
  | settled
  /-- `RX` of R149 -/
  | rx
  /-- `TIMEOUT` of R149: the receive timeout has expired -/
  | timeout
  /-- `ABORT` of R149 -/
  | abort
  /-- `ENV_BYTE(b)` of R149: a byte completes on the line -/
  | line (b : Byte)
  /-- `n` clock ticks pass (R205) -/
  | ticks (n : Nat)
  /-- the level of the reset input changes (R215) -/
  | setRst (level : Bool)
  /-- an actuator is attached to the line -/
  | attach (id : Byte) (hr flatRanges : Bool)
  /-- the `k`-th actuator changes a register of its own accord (R46, R57) -/
  | actuatorSets (k : Nat) (addr value : Byte)
  /-- the `k`-th actuator's error byte changes (R53, K10) -/
  | actuatorFault (k : Nat) (error : Byte)
  /-- the attached actuators act on the next instruction packet on the line (R52 to R56) -/
  | actuators
  /-- the next byte of a status packet arrives from an actuator (R52) -/
  | reply
  /-- the next byte of a status packet meets the byte the core is about to drive and is lost; what the receiver hears of
  the two is in the `tx` that follows (R87, R229, K20). It is owed to an earlier packet (log entry 36) -/
  | replyLost
deriving DecidableEq, Repr

/-- The machine. Fields of the core bear the spec's names; `hostData`, `bus`, `events` and `free` are the
model's own (INVENTORY.md, State). -/
structure State where
  /-- `CFG`, register 0 (R12) -/
  cfg : Byte
  /-- `BAUDDIV`, register 1 (R13) -/
  bauddiv : Half
  /-- `SETTLE`, register 2 (R14) -/
  settle : Half
  /-- `TIMEOUT`, register 3 (R15) -/
  timeout : Word
  /-- `POLL_LIMIT`, register 4 (R16) -/
  pollLimit : Half
  /-- `DEV_ID`, register 5 (R17) -/
  devId : Byte
  /-- `CMD_ID`, register 8 (R19) -/
  cmdId : Byte
  /-- `CMD_ADDR`, register 9 (R20) -/
  cmdAddr : Byte
  /-- `CMD_COUNT`, register 10 (R21) -/
  cmdCount : Byte
  /-- `CMD_FLAGS`, register 11 (R22) -/
  cmdFlags : Byte
  /-- `VAL`, register 12 (R23) -/
  val : Word
  /-- `WDATA[0..13]`, registers 32 to 45 (R24) -/
  wdata : Vector Byte 14
  /-- `OP`, register 13 (R25) -/
  op : Byte
  /-- `STATUS.BUSY` (R26) -/
  busy : Bool
  /-- `STATUS.DONE` (R26) -/
  done : Bool
  /-- `STATUS.MALFORMED` (R26, R106) -/
  malformed : Bool
  /-- `STATUS.FAULT_SEEN` (R26, R104) -/
  faultSeen : Bool
  /-- `STATUS.OVR` (R26, R92) -/
  ovr : Bool
  /-- `STATUS.LB_MISMATCH` (R26, R88) -/
  lbMismatch : Bool
  /-- `CC`, register 17 (R27) -/
  cc : Byte
  /-- `ERR`, register 18 (R28) -/
  err : Byte
  /-- `RID`, register 19 (R29) -/
  rid : Byte
  /-- `RCOUNT`, register 20 (R30) -/
  rcount : Byte
  /-- `RESULT`, register 21 (R32) -/
  result : Word
  /-- `RDATA[0..13]`, registers 48 to 61 (R31) -/
  rdata : Vector Byte 14
  /-- `RXBUF[0..19]`, registers 64 to 83 (R34) -/
  rxbuf : Vector Byte 20
  /-- `TXBUF[0..19]`, registers 96 to 115 (R34) -/
  txbuf : Vector Byte 20
  /-- `pc` (R35) -/
  pc : Phase
  /-- `sub` (R35): the transaction within a multi-transaction operation -/
  sub : Nat
  /-- `tgt` (R35): the bus address of the current transaction -/
  tgt : Byte
  /-- `txn` (R35): the length of the frame in `TXBUF` -/
  txn : Nat
  /-- `txi` (R35): the next byte to transmit -/
  txi : Nat
  /-- `nexp` (R35): the parameter count expected in the status packet -/
  nexp : Nat
  /-- `rxn` (R35): the number of bytes to receive -/
  rxn : Nat
  /-- `rxi` (R35): the next byte to receive; register 22, `RXN`, is read from it (R33) -/
  rxi : Nat
  /-- `pollcnt` (R35): the polls done by the current blocking `SET_GOAL` -/
  pollcnt : Half
  /-- `werr` (R35): the error code of the write of a blocking `SET_GOAL` -/
  werr : Byte
  /-- `wait_cnt` (R35, R205): ticks spent in the current wait -/
  waitCnt : Word
  /-- `abort_req` (R18, R35) -/
  abortReq : Bool
  /-- `DIR` (R36) -/
  dir : LineDir
  /-- `RXQ` (R37), the oldest byte first -/
  rxq : List Byte
  /-- the level of the port `rst` (R38, R215) -/
  rst : Bool
  /-- the read data of the host's register port (R38), 32 bits wide (log entry 32); MODEL's own (log entry 21) -/
  hostData : Word
  /-- the environment (log entry 11) -/
  bus : Bus
  /-- the steps the agents will take, in order (log entry 1) -/
  events : List Event
  /-- how many free values have been drawn (log entry 23) -/
  free : Nat
deriving DecidableEq, Repr

/-- Why the machine stops: only the environment half does; the core never faults (R190). -/
inductive Fault where
  /-- An instruction packet whose register range runs past the actuator's address 255, an address that does not
  exist (R40, R44). Raised by `IPKT.READ`, `IPKT.WRITE`, `IPKT.REG_WRITE`, and by `IPKT.ACTION` on such a staged
  write, which no run holds. SAFE: the source gives no effect. -/
  | actuatorAddress
deriving DecidableEq, Repr

/-- Why the model gives no meaning: the cases of K19 in which an environment model "should refuse". Every one is
SAFE: the source gives no effect. The core itself is refused nothing. -/
inductive Refusal where
  /-- An instruction whose meaning is not written. Raised by no arm of this model. SAFE. -/
  | notModelled (mnemonic : String)
  /-- A frame that ends before its length byte says (K19, R197), sent to an attached actuator or before its ID is
  known. Raised by the event `actuators`. SAFE. -/
  | truncatedFrame
  /-- A parameterless 0x04 to an attached actuator's own ID (R55, K19). Raised by the event `actuators`. SAFE. -/
  | triggerNotBroadcast
  /-- A frame sent to an attached actuator that is no instruction packet of R61 to R71: wrong checksum, a length byte
  outside 2 to 16, parameters that do not fit the code. Raised by the event `actuators`. SAFE. -/
  | frameNotInSource
  /-- A READ packet for no bytes reached an actuator (N26, K19). Raised by `IPKT.READ`. SAFE. -/
  | zeroLengthRead
  /-- A register range crosses a register boundary (R44, K19). Raised by `IPKT.READ`, `IPKT.WRITE`,
  `IPKT.REG_WRITE`, and by `IPKT.ACTION` on such a staged write, which no run holds. SAFE. -/
  | registerBoundary
  /-- A second staged write before a trigger (R49, N10, K19). Raised by `IPKT.REG_WRITE`. SAFE. -/
  | secondStagedWrite
  /-- An instruction code the source does not define reached an actuator (R73, N16). Raised by `IPKT.RESERVED`.
  SAFE. -/
  | codeNotInSource
deriving DecidableEq, Repr

/-- The machine right after reset: the table of R216. The buffers, whose reset content R216 leaves unspecified,
hold zeros (log entry 5); no actuator is attached and no agent is scheduled (log entries 1, 11). -/
def State.reset : State where
  cfg := 0#8
  bauddiv := Config.bauddivReset
  settle := Config.settleReset
  timeout := 0#32
  pollLimit := 0#16
  devId := 0#8
  cmdId := 0#8
  cmdAddr := 0#8
  cmdCount := 0#8
  cmdFlags := 0#8
  val := 0#32
  wdata := Vector.replicate 14 0#8
  op := 0#8
  busy := false
  done := false
  malformed := false
  faultSeen := false
  ovr := false
  lbMismatch := false
  cc := 0#8
  err := 0#8
  rid := 0#8
  rcount := 0#8
  result := 0#32
  rdata := Vector.replicate 14 0#8
  rxbuf := Vector.replicate 20 0#8
  txbuf := Vector.replicate 20 0#8
  pc := .idle
  sub := 0
  tgt := 0#8
  txn := 0
  txi := 0
  nexp := 0
  rxn := 0
  rxi := 0
  pollcnt := 0#16
  werr := 0#8
  waitCnt := 0#32
  abortReq := false
  dir := .input
  rxq := []
  rst := false
  hostData := 0#32
  bus := { sent := [], wire := [], actuators := [], reply := [] }
  events := []
  free := 0

end Sys2Proof.Machine
end

