-- ==== Sys2Proof/Machine/Flags.lean ====
section
/-! DEFINITION. The flags: the fields of `CFG` and `CMD_FLAGS`, the byte `STATUS`, the flag rules of the decoder
(R104, R106), and the output ports that are functions of flags (R97, R200). -/

namespace Sys2Proof.Machine

/-- `CFG.FAMILY` (R12): true for HR, the higher-resolution family. -/
def isHR (s : State) : Bool := s.cfg.getLsbD 0

/-- `CFG.LB` (R12): loop-back mode of the link. -/
def loopBack (s : State) : Bool := s.cfg.getLsbD 1

/-- `CFG.CHK_EN` (R12): status packets are validated. -/
def chkEn (s : State) : Bool := s.cfg.getLsbD 2

/-- `CFG.RXIE` (R12): enable of `rx_irq`. -/
def rxie (s : State) : Bool := s.cfg.getLsbD 3

/-- `CMD_FLAGS.STAGED` (R22). -/
def staged (s : State) : Bool := s.cmdFlags.getLsbD 0

/-- `CMD_FLAGS.BLOCKING` (R22). -/
def blocking (s : State) : Bool := s.cmdFlags.getLsbD 1

/-- The writable bits of `CFG`; 7:4 are reserved, read 0 and ignore writes (R12). -/
def cfgMask : Byte := 0x0F#8

/-- The writable bits of `CMD_FLAGS`; 7:2 are reserved, read 0 and ignore writes (R22). -/
def flagsMask : Byte := 0x03#8

/-- `STATUS.RXNE` (R26): live, `RXQ` holds at least one byte. -/
def rxne (s : State) : Bool := !s.rxq.isEmpty

/-- `STATUS.DIR` (R26): live, the line direction is `OUT`. -/
def dirOut (s : State) : Bool := s.dir == .output

/-- One bit at a place. -/
def bitAt (b : Bool) (k : Nat) : Byte := if b then 1#8 <<< k else 0#8

/-- `STATUS`, register 16 (R26). -/
def statusByte (s : State) : Byte :=
  bitAt s.busy 0 ||| bitAt s.done 1 ||| bitAt s.malformed 2 ||| bitAt s.faultSeen 3 |||
    bitAt s.ovr 4 ||| bitAt s.lbMismatch 5 ||| bitAt (dirOut s) 6 ||| bitAt (rxne s) 7

/-- The port `rx_irq` (R97): `CFG.RXIE and STATUS.RXNE and not STATUS.BUSY`. -/
def rxIrq (s : State) : Bool := rxie s && rxne s && !s.busy

/-- The port `busy` (R38). -/
def busyPort (s : State) : Bool := s.busy

/-- The port `done` (R38, R200). -/
def donePort (s : State) : Bool := s.done

/-- The port `sio_oe` (R38, R86): 1 exactly while `DIR = OUT`. -/
def sioOe (s : State) : Bool := dirOut s

/-- `STATUS.FAULT_SEEN` after a packet with this error byte is decoded (R104). -/
def faultSeenAfter (err : Byte) (s : State) : Bool := s.faultSeen || err != 0#8

/-- `bad_len or bad_chk` of `validate` (R106). -/
def badReply (id len err : Byte) (params : List Byte) (chk : Byte) : Bool :=
  len.toNat != params.length + 2 || chk != checksum (id :: len :: err :: params)

/-- `STATUS.MALFORMED` after `validate` (R106): only `CFG.CHK_EN` makes it look. -/
def malformedAfter (id len err : Byte) (params : List Byte) (chk : Byte) (s : State) : Bool :=
  s.malformed || (chkEn s && badReply id len err params chk)

/-- A bit of `CMD_FLAGS` is 1 that the operation does not define (R22, R140 check 2). -/
def badFlags (defined : Byte) (s : State) : Bool := s.cmdFlags &&& ~~~defined != 0#8

end Sys2Proof.Machine
end

