-- ==== Sys2Proof/Machine/Ops.lean ====
section
/-! DEFINITION. The shared operations: byte buffers, the receive queue, the link's byte events (40_link.md), the
frame of a transaction (43_bus_ops.md R141), completion (R146, the one way a condition is taken, R196),
acceptance (R140) and the decoder's register writes (R104). -/

namespace Sys2Proof.Machine

/-- What a meaning answers. -/
abbrev Out := Host.Outcome State Fault Refusal

/-- Sequencing of two computations that may stop. -/
def andThen {α β : Type} (x : Host.Outcome α Fault Refusal) (f : α → Host.Outcome β Fault Refusal) :
    Host.Outcome β Fault Refusal :=
  match x with
  | .next a => f a
  | .fault r => .fault r
  | .refused r => .refused r

/-! ## Byte buffers -/

/-- Byte `i` of a buffer (R7). -/
def byteAt {n : Nat} (v : Vector Byte n) (i : Nat) : Byte := v[i]?.getD 0#8

/-- Bytes stored from index `i` upward; the others keep their content (R31, R102). -/
def fill {n : Nat} (v : Vector Byte n) (i : Nat) : List Byte → Vector Byte n
  | [] => v
  | b :: bs => fill (v.setIfInBounds i b) (i + 1) bs

/-! ## Completion: how every operation ends, and how a condition is taken -/

/-- The completion codes of R191. -/
inductive Completion where
  | ok
  | badOp
  | badFlags
  | badId
  | broadcastRead
  | unsupported
  | tooLong
  | badValue
  | busTimeout
  | aborted
  | pollExpired
  | malformedReply
deriving DecidableEq, Repr

/-- The numbers of R191. -/
def Completion.code : Completion → Byte
  | .ok => 0x0#8
  | .badOp => 0x1#8
  | .badFlags => 0x2#8
  | .badId => 0x3#8
  | .broadcastRead => 0x4#8
  | .unsupported => 0x5#8
  | .tooLong => 0x6#8
  | .badValue => 0x7#8
  | .busTimeout => 0x8#8
  | .aborted => 0x9#8
  | .pollExpired => 0xA#8
  | .malformedReply => 0xB#8

/-- What `complete(code)` writes to `CC` (R146): `MalformedReply` replaces only `Ok` (R195 (e)). -/
def finalCode (c : Completion) (malformed : Bool) : Completion :=
  if c = .ok ∧ malformed = true then .malformedReply else c

/-- `complete(code)` (R146), and `raise Condition`, which is the same and nothing more (R196): nothing is saved,
nothing resumes, there is no return (R198). -/
def complete (c : Completion) (s : State) : State :=
  { s with
    cc := (finalCode c s.malformed).code
    pc := .idle
    abortReq := false
    busy := false
    done := true }

/-! ## Acceptance -/

/-- What acceptance writes before the checks (R140). -/
def beginOp (op : Byte) (s : State) : State :=
  { s with
    op := op
    busy := true
    done := false
    malformed := false
    faultSeen := false
    cc := 0#8
    abortReq := false
    sub := 0
    pollcnt := 0#16
    werr := 0#8 }

/-- The first failing check gives the code (R140, R194). -/
def firstFail : List (Bool × Completion) → Option Completion
  | [] => none
  | (bad, c) :: rest => if bad then some c else firstFail rest

/-- Acceptance of an operation (R140): ignored while busy (R11, R25); otherwise the first failing check ends it
in the same step, and with none the operation's own rule runs. -/
def accept (op : Byte) (checks : State → List (Bool × Completion)) (run : State → State) (s : State) : Out :=
  if s.busy then .next s
  else
    match firstFail (checks (beginOp op s)) with
    | some c => .next (complete c (beginOp op s))
    | none => .next (run (beginOp op s))

/-! ## The link's byte events -/

/-- The receiver captures what is on the line (R91): `DIR = IN` or `CFG.LB = 1`; never under reset (R215). -/
def listening (s : State) : Bool := !s.rst && (s.dir == .input || loopBack s)

/-- A byte completes on the line (R91, R92; `ENV_BYTE` of R149): captured if there is room, otherwise dropped with
`OVR` set. -/
def capture (b : Byte) (s : State) : State :=
  { s with
    rxq := if listening s && decide (s.rxq.length < Config.rxqDepth) then s.rxq ++ [b] else s.rxq
    ovr := s.ovr || (listening s && decide (Config.rxqDepth ≤ s.rxq.length)) }

/-- Several bytes, one after another. -/
def captureAll : List Byte → State → State
  | [], s => s
  | b :: bs, s => captureAll bs (capture b s)

/-- `line_tx(b)` (R7): the core drives a byte. -/
def drive (b : Byte) (s : State) : State :=
  { s with bus := { s.bus with sent := s.bus.sent ++ [b], wire := s.bus.wire ++ [b] } }

/-- `DIR <- d` (R36, R86). -/
def setDir (d : LineDir) (s : State) : State := { s with dir := d }

/-- One byte of a transmission (R87, R88): `DIR <- OUT; line_tx(b); DIR <- IN`, the receiver hearing `heard`
meanwhile. -/
def sendByte (b : Byte) (heard : List Byte) (s : State) : State :=
  setDir .input (captureAll heard (drive b (setDir .output s)))

/-- The queue after `rxq_pop()` (R7). -/
def popRxq (s : State) : State := { s with rxq := s.rxq.tail }

/-- The byte `rxq_pop()` returns; defined only when `RXQ` is not empty (R7). -/
def headRxq (s : State) : Byte := s.rxq.headD 0#8

/-! ## Transactions -/

/-- The frame to send is in `TXBUF`, its length in `txn`, and the sequencer is about to send it (R95, R102,
R141). -/
def loadFrame (frame : List Byte) (s : State) : State :=
  { s with
    txbuf := fill s.txbuf 0 frame
    txn := frame.length
    txi := 0
    pc := .txb }

/-- The head of `transact(id, instr, P, nexp)` (R141), up to the first byte: the encoder's frame (R102) is loaded.
The rest is the sequencer's (R149). -/
def transact (id instr : Byte) (params : List Byte) (nexp : Nat) (s : State) : State :=
  { loadFrame (packet id instr params) s with tgt := id, nexp := nexp }

/-- The frame is sent and a reply is due: the settle interval begins (R141, R142). -/
def enterSettle (s : State) : State := { s with pc := .settle, waitCnt := 0#32 }

/-- The receive phase begins (R141, R149 `SETTLED`); `rxi`, and with it `RXN`, is cleared here and not before (R33; log
entry 34). -/
def enterReceive (s : State) : State :=
  { s with
    rxn := 6 + s.nexp
    rxi := 0
    pc := .rxb
    waitCnt := 0#32 }

/-- Local success of a broadcast transaction (R147). -/
def broadcastDone (s : State) : State := { s with err := 0#8, rcount := 0#8 }

/-- `decode_status` and `validate` (R104, R106): what they write. -/
def decodeStatus (id len err : Byte) (params : List Byte) (chk : Byte) (s : State) : State :=
  { s with
    rid := id
    err := err
    rcount := BitVec.ofNat 8 params.length
    rdata := fill s.rdata 0 params
    faultSeen := faultSeenAfter err s
    malformed := malformedAfter id len err params chk s }

/-! ## Time and reset -/

/-- `wait_cnt` after `n` more ticks: 32 bits, and it does not wrap (R205; log entry 6). -/
def addTicks (c : Word) (n : Nat) : Word :=
  if c.toNat + n < 2 ^ 32 then BitVec.ofNat 32 (c.toNat + n) else BitVec.allOnes 32

/-- The sequencer is in a wait (R35 `wait_cnt`, R148): `LBD`, `SETTLE` or `RXB`. -/
def waiting (s : State) : Bool := s.pc == .lbd || s.pc == .settle || s.pc == .rxb

/-- `n` clock ticks pass (R205): `wait_cnt` counts them while a wait lasts. -/
def passTicks (n : Nat) (s : State) : State :=
  { s with waitCnt := if waiting s then addTicks s.waitCnt n else s.waitCnt }

/-- Reset (R215, R216): every piece of state of the core takes its reset value. The actuators, the line's
history and the model's own fields are not reached (R217). -/
def resetCore (s : State) : State :=
  { State.reset with
    rst := s.rst
    hostData := s.hostData
    bus := s.bus
    events := s.events
    free := s.free }

end Sys2Proof.Machine
end

