-- ==== Sys2Proof/Machine/Bus.lean ====
section
/-! DEFINITION. The bus environment: what a conforming actuator does (20_memory.md R52 to R57), not the core. The
contents of an actuator's registers as a canonical list, and the operations over the attached actuators. -/

namespace Sys2Proof.Machine

/-! ## An actuator's registers -/

/-- Addresses strictly rising and below 256 (R40). -/
def Memory.wf : Memory → Bool
  | [] => true
  | [c] => decide (c.1 < 256)
  | c :: d :: m => decide (c.1 < d.1) && Memory.wf (d :: m)

/-- The byte known at an address; an unlisted address holds no known value (R57; log entry 12). -/
def Memory.read : Memory → Nat → Option Byte
  | [], _ => none
  | c :: m, a => if c.1 = a then some c.2 else Memory.read m a

/-- A byte stored at an address, keeping the list in order. -/
def Memory.write : Memory → Nat → Byte → Memory
  | [], a, b => [(a, b)]
  | c :: m, a, b =>
    if a < c.1 then (a, b) :: c :: m
    else if a = c.1 then (a, b) :: m
    else c :: Memory.write m a b

/-- The register that holds the bus ID (R42). -/
def busIdAddr : Nat := 0x03

/-- One byte of an actuator's registers; 0x03 is its bus ID (R42, R56). -/
def loadByte (a : Actuator) (addr : Nat) : Option Byte :=
  if addr = busIdAddr then some a.id else Memory.read a.regs addr

/-- One byte stored; a store to 0x03 changes the ID the actuator answers to (R56). -/
def storeByte (a : Actuator) (addr : Nat) (b : Byte) : Actuator :=
  if addr = busIdAddr then { a with id := b } else { a with regs := Memory.write a.regs addr b }

/-- `d(i)` at register `addr + i` for each `i` (R54). -/
def storeBytes (a : Actuator) (addr : Nat) : List Byte → Actuator
  | [] => a
  | b :: bs => storeBytes (storeByte a addr b) (addr + 1) bs

/-- The content of `n` registers from `addr` upward (R53); a byte nobody has told is free (log entry 12). -/
def loadBytes (a : Actuator) (addr : Nat) (k : Nat) : Nat → List Byte
  | 0 => []
  | n + 1 => (loadByte a addr).getD (Config.freeByte k) :: loadBytes a (addr + 1) (k + 1) n

/-! ## Ranges the source gives no meaning -/

/-- The registers the source fixes for a family, with their widths (R42): the current-sense register is HR's only. -/
def knownRegisters (hr : Bool) : List (Nat × Nat) :=
  [(0x03, 1), (0x06, 2), (0x08, 2), (0x18, 1), (0x1E, 2), (0x20, 2), (0x22, 2), (0x24, 2), (0x2A, 1), (0x2B, 1),
    (0x2E, 1)] ++ (if hr then [(0x44, 2)] else [])

/-- The range runs past address 255 (R44). -/
def pastEnd (addr n : Nat) : Bool := decide (256 < addr + n)

/-- The range `addr … addr + n - 1` meets a register and reaches outside it. -/
def cuts (addr n : Nat) (r : Nat × Nat) : Bool :=
  decide (addr < r.1 + r.2 ∧ r.1 < addr + n ∧ ¬(r.1 ≤ addr ∧ addr + n ≤ r.1 + r.2))

/-- The range crosses the boundary of a register of R42 (R44; log entry 15). -/
def crossesRegister (hr : Bool) (addr n : Nat) : Bool := (knownRegisters hr).any (cuts addr n)

/-- Goes on with a range the source gives a meaning, stops by name at one it does not (R44, K19). -/
def withRange {α : Type} (a : Actuator) (addr n : Nat) (go : Host.Outcome α Fault Refusal) :
    Host.Outcome α Fault Refusal :=
  if pastEnd addr n then .fault .actuatorAddress
  else if !a.flatRanges && crossesRegister a.hr addr n then .refused .registerBoundary
  else go

/-! ## What one actuator does -/

/-- An instruction packet reaches an actuator: its own ID, or broadcast (R52, R56). -/
def reaches (id : Byte) (a : Actuator) : Bool := id == Config.broadcastId || a.id == id

/-- Two register ranges have a register in common; a range of no bytes has none. -/
def meets (a n b m : Nat) : Bool := decide (0 < n ∧ 0 < m ∧ a < b + m ∧ b < a + n)

/-- Whether a staged write survives an immediate write to the same register is not in the source (N10): free (log
entry 16). To other registers, or to none, it does (R55: it is held until the trigger). -/
def keepStaged (k : Nat) (addr n : Nat) (a : Actuator) : Actuator :=
  match a.staged with
  | none => a
  | some (b, d) =>
    if meets addr n b.toNat d.length then { a with staged := if Config.freeBit k then some (b, d) else none } else a

/-- An immediate write (R54). All its bytes are stored in one step: whether an actuator applies them atomically is not
in the source (R46, N9; log entry 26). -/
def writeNow (addr : Byte) (data : List Byte) (k : Nat) (a : Actuator) : Host.Outcome Actuator Fault Refusal :=
  withRange a addr.toNat data.length (.next (storeBytes (keepStaged k addr.toNat data.length a) addr.toNat data))

/-- A staged write (R55): recorded, registers unchanged; a second before the trigger is not in the source (N10), nor is
a range R44 gives no meaning. -/
def stageWrite (addr : Byte) (data : List Byte) (_k : Nat) (a : Actuator) : Host.Outcome Actuator Fault Refusal :=
  match a.staged with
  | none => withRange a addr.toNat data.length (.next { a with staged := some (addr, data) })
  | some _ => .refused .secondStagedWrite

/-- The trigger (R55): a held write is applied as R54 would, and the buffer is empty. -/
def fireStaged (_k : Nat) (a : Actuator) : Host.Outcome Actuator Fault Refusal :=
  match a.staged with
  | none => .next a
  | some (addr, data) =>
    withRange a addr.toNat data.length (.next (storeBytes { a with staged := none } addr.toNat data))

/-! ## The attached actuators -/

/-- Every actuator the packet reaches does `f`; one it does not reach does nothing (R52). -/
def eachReached (id : Byte) (f : Nat → Actuator → Host.Outcome Actuator Fault Refusal) :
    Nat → List Actuator → Host.Outcome (List Actuator) Fault Refusal
  | _, [] => .next []
  | k, a :: as =>
    andThen (if reaches id a then f k a else .next a) fun a' =>
      andThen (eachReached id f (k + 1) as) fun as' => .next (a' :: as')

/-- The status packet that answers a write (R52, R54): no parameters; none to a broadcast. Whether the reply to an
ID change carries the old or the new ID is free (K22, log entry 13); several repliers at once put free bytes on the
line (R56, K12, log entry 14). `pairs` are the actuators addressed, before and after. -/
def writeReply (id : Byte) (k : Nat) (pairs : List (Actuator × Actuator)) : List Byte :=
  if id = Config.broadcastId then []
  else
    match pairs with
    | [] => []
    | [p] => packet (if Config.freeBit k then p.2.id else p.1.id) p.2.error []
    | _ => Config.freeBytes k

/-- The actuators whose ID is the packet's, before and after. -/
def addressedPairs (id : Byte) (before after : List Actuator) : List (Actuator × Actuator) :=
  (before.zip after).filter fun p => p.1.id == id

/-- The actuators and the reply after an instruction packet, with the free values it drew counted. Replies are due whole
and in the order of their packets (log entry 33). -/
def settleBus (actuators : List Actuator) (reply : List Byte) (drawn : Nat) (s : State) : State :=
  { s with
    bus := { s.bus with actuators := actuators, reply := s.bus.reply ++ reply }
    free := s.free + drawn }

/-- A write packet on the bus (R54 to R56): every actuator reached does `f`, and the addressed one replies. -/
def busWrite (id : Byte) (f : Nat → Actuator → Host.Outcome Actuator Fault Refusal) (s : State) : Out :=
  andThen (eachReached id f s.free s.bus.actuators) fun as =>
    .next (settleBus as (writeReply id (s.free + s.bus.actuators.length) (addressedPairs id s.bus.actuators as))
      (s.bus.actuators.length + 1) s)

/-- The largest count whose length byte, the count plus 2, is a byte (R65). -/
def maxReplyParams : Nat := 253

/-- The status packet that answers a read (R53). For a count whose length byte R65 cannot give the reply is free (log
entry 30). -/
def readReply (a : Actuator) (addr n k : Nat) : List Byte :=
  if n ≤ maxReplyParams then packet a.id a.error (loadBytes a addr k n) else Config.freeBytes k

/-- A read packet on the bus (R52, R53): the one actuator addressed replies; nobody does if there is none, or to a
broadcast; several put free bytes on the line (R56), whatever range the packet asks for (log entry 14). No register changes: whether a read has a side effect is not in
the source (R46, N9; log entry 27). -/
def busRead (id addr count : Byte) (s : State) : Out :=
  if id = Config.broadcastId then .next s
  else
    match s.bus.actuators.filter (fun a => a.id == id) with
    | [] => .next s
    | [a] =>
      if count = 0#8 then .refused .zeroLengthRead
      else withRange a addr.toNat count.toNat
        (.next (settleBus s.bus.actuators (readReply a addr.toNat count.toNat s.free) count.toNat s))
    | _ => .next (settleBus s.bus.actuators (Config.freeBytes s.free) 1 s)

/-- An actuator is attached: nothing known of its registers, nothing staged, no fault. -/
def attachActuator (id : Byte) (hr flatRanges : Bool) (s : State) : State :=
  { s with
    bus := { s.bus with
      actuators := s.bus.actuators ++
        [{ id := id, regs := [], staged := none, error := 0#8, hr := hr, flatRanges := flatRanges }] } }

/-- The `k`-th actuator changes of its own accord (R46, R57). -/
def changeActuator (k : Nat) (f : Actuator → Actuator) (s : State) : State :=
  { s with bus := { s.bus with actuators := s.bus.actuators.modify k f } }

/-- The next byte the actuators owe arrives on the line (R52; `ENV_BYTE` of R149), in the order due (log entry 33). One
that meets a byte the core drives is lost by `loseReply`. -/
def deliverReply (s : State) : State :=
  match s.bus.reply with
  | [] => s
  | b :: bs => capture b { s with bus := { s.bus with reply := bs } }

/-- The next byte the actuators owe meets the byte the core is about to drive and is lost (R87, R229): what is heard of
the two is the argument of `tx` (K20). It is owed to an earlier packet: nothing is owed to the packet in progress before
its last byte is over (log entry 36). -/
def loseReply (s : State) : State :=
  if s.pc = .txb then { s with bus := { s.bus with reply := s.bus.reply.tail } } else s

/-- The bytes of an instruction packet are taken off the line. -/
def takeWire (rest : List Byte) (s : State) : State := { s with bus := { s.bus with wire := rest } }

/-- Bytes that bound no frame pass by: the first, and as many after it as the actuators take to find the next packet,
which is free (log entry 31). -/
def loseBytes (s : State) : State :=
  { takeWire (s.bus.wire.drop (Config.lostBytes s.free + 1)) s with free := s.free + 1 }

/-- The bytes of the frame on the line: the header, `ID`, `LEN`, and as many as `LEN` counts (R61, R65). -/
def frameLength (bytes : List Byte) : Nat := (bytes.getD 3 0#8).toNat + 4

/-- What is wrong leaves the frame's end known: header, length and checksum are right (R61, R65, R68). -/
def wholeFrame : DecodeError → Bool
  | .triggerNotBroadcast => true
  | .badParams => true
  | .tooLong => true
  | .empty => false
  | .truncated => false
  | .badHeader => false
  | .badLength => false
  | .badChecksum => false

/-- Bytes for no attached actuator pass by: a whole frame by its length, any others as far as `loseBytes` says. -/
def passBy (e : DecodeError) (s : State) : State :=
  if wholeFrame e then takeWire (s.bus.wire.drop (frameLength s.bus.wire)) s else loseBytes s

/-- The ID byte of the frame on the line, once it is there (R61). -/
def frameId (bytes : List Byte) : Option Byte := bytes[2]?

/-- An attached actuator is addressed by the frame on the line, or may still be: its ID byte has not come (R52). -/
def mayReach (bytes : List Byte) (actuators : List Actuator) : Bool :=
  match frameId bytes with
  | some id => actuators.any (reaches id)
  | none => !actuators.isEmpty

/-- The stop for a frame without meaning, by what is wrong with it (R55, K19). -/
def frameRefusal : DecodeError → Refusal
  | .truncated => .truncatedFrame
  | .triggerNotBroadcast => .triggerNotBroadcast
  | .empty => .frameNotInSource
  | .badHeader => .frameNotInSource
  | .badLength => .frameNotInSource
  | .tooLong => .frameNotInSource
  | .badChecksum => .frameNotInSource
  | .badParams => .frameNotInSource

/-- Bytes on the line that decode to no instruction packet, with no more of the frame to come. Without the header they
are no packet (R63) and no actuator acts on them (R52); a frame for nobody attached does nothing either (R52); one
that reaches an actuator has no meaning in the source. -/
def unreadable (e : DecodeError) (s : State) : Out :=
  if e ≠ .badHeader ∧ mayReach s.bus.wire s.bus.actuators = true then .refused (frameRefusal e)
  else .next (passBy e s)

end Sys2Proof.Machine
end

