-- ==== Sys2Proof/Machine/Scaling.lean ====
section
/-! DEFINITION. Register-map lookup and unit scaling (42_regmap_scaling.md R115 to R128), in exact integers. -/

namespace Sys2Proof.Machine

/-- The attributes of R115. -/
inductive Attr where
  | busId
  | cwLimit
  | ccwLimit
  | torqueEnable
  | goalPosition
  | movingSpeed
  | torqueLimit
  | position
  | voltage
  | temperature
  | moving
  | current
deriving DecidableEq, Repr

/-- `regmap(attr, family)` (R115): register address and width in bytes. The family changes one thing only,
whether `CURRENT` exists (R116). -/
def regmap (attr : Attr) (hr : Bool) : Option (Byte × Nat) :=
  match attr with
  | .busId => some (0x03#8, 1)
  | .cwLimit => some (0x06#8, 2)
  | .ccwLimit => some (0x08#8, 2)
  | .torqueEnable => some (0x18#8, 1)
  | .goalPosition => some (0x1E#8, 2)
  | .movingSpeed => some (0x20#8, 2)
  | .torqueLimit => some (0x22#8, 2)
  | .position => some (0x24#8, 2)
  | .voltage => some (0x2A#8, 1)
  | .temperature => some (0x2B#8, 1)
  | .moving => some (0x2E#8, 1)
  | .current => if hr then some (0x44#8, 2) else none

/-- `round(a / b)` for `b > 0` (R117): half up is `floor(a/b + 1/2)`, half down is `ceil(a/b - 1/2)`. -/
def roundDiv (t : Config.TieRule) (a b : Nat) : Nat :=
  match t with
  | .halfUp => (2 * a + b) / (2 * b)
  | .halfDown => (2 * a + b - 1) / (2 * b)

/-- `enc_angle(V)` (R118): `round(4095 * V / (360 * 65536))`, for `V >= 0`. -/
def encAngle (v : Int) : Nat := roundDiv Config.tieRule (4095 * v.toNat) (360 * 65536)

/-- The magnitude of `enc_speed(V)` (R119): `round(1023 * |V| / 65536)`. -/
def speedMagnitude (v : Int) : Nat := roundDiv Config.tieRule (1023 * v.natAbs) 65536

/-- `enc_speed(V)` (R119): the magnitude, and bit 10 set when `V < 0`. -/
def encSpeed (v : Int) : Nat := speedMagnitude v ||| (if v < 0 then 1 <<< 10 else 0)

/-- `enc_torque(V)` (R120): `round(1023 * V / 65536)`, for `V >= 0`. -/
def encTorque (v : Int) : Nat := roundDiv Config.tieRule (1023 * v.toNat) 65536

/-- `enc_direct(V)` (R121): `V[7:0]`. -/
def encDirect (v : Word) : Nat := v.toNat % 256

/-- `split16(raw)` (R122): low byte, high byte. -/
def split16 (raw : Nat) : Byte × Byte := (BitVec.ofNat 8 raw, BitVec.ofNat 8 (raw / 256))

/-- `join(RDATA, width)` (R123): one byte, or two with the low byte first; unsigned. -/
def join (b0 b1 : Byte) (width : Nat) : Nat := if width = 2 then b0.toNat + 256 * b1.toNat else b0.toNat

/-- `dec_position(raw)` (R124): `raw * 75`, in 1/256 degree. -/
def decPosition (raw : Nat) : Int := (raw : Int) * 75

/-- `dec_temperature(raw)` (R125): `raw`, in degrees Celsius. -/
def decTemperature (raw : Nat) : Int := raw

/-- `dec_voltage(raw)` (R126): `raw`, in tenths of a volt. -/
def decVoltage (raw : Nat) : Int := raw

/-- `dec_current(raw)` (R127): `(raw - 2303) * 45`, in 1/10000 ampere; a signed subtraction. -/
def decCurrent (raw : Nat) : Int := ((raw : Int) - 2303) * 45

/-- `dec_moving(raw)` (R128): 1 if `raw` is not 0. -/
def decMoving (raw : Nat) : Int := if raw = 0 then 0 else 1

end Sys2Proof.Machine
end

