-- ==== Sys2Proof/Machine/Operands.lean ====
section
/-! DEFINITION. The operand forms of the host operations: `VAL` in its formats and domains (30_encoding.md R77),
targets, counts and flags as the acceptance checks of 43_bus_ops.md R140 read them, and the result formats (R78). -/

namespace Sys2Proof.Machine

/-- `V`: `VAL` as a signed two's-complement integer (R77). -/
def valInt (s : State) : Int := s.val.toInt

/-- `V` lies outside `lo … hi`. -/
def outside (lo hi : Int) (s : State) : Bool := decide (valInt s < lo ∨ hi < valInt s)

/-- Check 2 of R140: `CMD_FLAGS` has a bit set that the operation does not define. -/
def flagsCheck (defined : Byte) (s : State) : Bool × Completion := (badFlags defined s, .badFlags)

/-- Check 3 of R140: the target is 255. -/
def idCheck (target : Byte) : Bool × Completion := (target == Config.noId, .badId)

/-- Check 4 of R140: the target is 254 and the operation would send a READ packet. -/
def broadcastCheck (target : Byte) : Bool × Completion := (target == Config.broadcastId, .broadcastRead)

/-- Check 5 of R140: the LR family has no current register. -/
def familyCheck (s : State) : Bool × Completion := (!isHR s, .unsupported)

/-- Check 6 of R140: `CMD_COUNT` exceeds the operation's limit. -/
def countCheck (limit : Nat) (s : State) : Bool × Completion := (decide (limit < s.cmdCount.toNat), .tooLong)

/-- Check 7 of R140 for `CMD_COUNT >= 1`. -/
def someBytesCheck (s : State) : Bool × Completion := (s.cmdCount == 0#8, .badValue)

/-- Check 7 of R140 for `VAL`. -/
def valCheck (lo hi : Int) (s : State) : Bool × Completion := (outside lo hi s, .badValue)

/-- The domain of an angle, 0 to 360 degrees in Q16.16 (R77). -/
def angleCheck (s : State) : Bool × Completion := valCheck 0 23592960 s

/-- The domain of a normalised speed, −1.0 to 1.0 in Q16.16 (R77). -/
def speedCheck (s : State) : Bool × Completion := valCheck (-65536) 65536 s

/-- The domain of a torque fraction, 0.0 to 1.0 in Q16.16 (R77). -/
def fractionCheck (s : State) : Bool × Completion := valCheck 0 65536 s

/-- The domain of `TORQUE_ENABLE` and `SET_MODE`: 0 or 1 (R77). -/
def switchCheck (s : State) : Bool × Completion := valCheck 0 1 s

/-- The domain of a new bus ID: 0 to 253 (R77). -/
def newIdCheck (s : State) : Bool × Completion := valCheck 0 253 s

/-- No flag is defined (R140). -/
def noFlags : Byte := 0x00#8

/-- `STAGED` is defined (R140). -/
def stagedFlag : Byte := 0x01#8

/-- `STAGED` and `BLOCKING` are defined (R140). -/
def stagedAndBlocking : Byte := 0x03#8

/-- `WDATA[0 .. CMD_COUNT-1]` (R24, R144, R95). -/
def operandBytes (s : State) : List Byte := s.wdata.toList.take s.cmdCount.toNat

/-- The instruction code of a write (R144, R160): REG_WRITE when staged. -/
def writeInstr (isStaged : Bool) : Byte := if isStaged then Config.regWriteCode else Config.writeCode

/-- `x[RESULT] <- S` (R78): a signed integer in 32 bits. -/
def setResult (v : Int) (s : State) : State := { s with result := BitVec.ofInt 32 v }

/-- `set_attr(t, attr, raw, staged)` (R160): the write of one attribute. Only `CURRENT` on the LR family has no
register (R115), and no setter writes it; the arm for it raises `Unsupported` as check 5 of R140 does. -/
def setAttr (t : Byte) (attr : Attr) (raw : Nat) (isStaged : Bool) (s : State) : State :=
  match regmap attr (isHR s) with
  | some (addr, width) =>
    if width = 2 then transact t (writeInstr isStaged) [addr, (split16 raw).1, (split16 raw).2] 0 s
    else transact t (writeInstr isStaged) [addr, (split16 raw).1] 0 s
  | none => complete .unsupported s

/-- The read of `get_attr(t, attr)` (R160). The arm without a register is `CURRENT` on the LR family, which
acceptance has refused. -/
def getAttr (t : Byte) (attr : Attr) (s : State) : State :=
  match regmap attr (isHR s) with
  | some (addr, width) => transact t Config.readCode [addr, BitVec.ofNat 8 width] width s
  | none => complete .unsupported s

/-- The raw value `get_attr` returns (R160): `join` of the bytes read. -/
def rawRead (width : Nat) (s : State) : Nat := join (byteAt s.rdata 0) (byteAt s.rdata 1) width

end Sys2Proof.Machine
end

