-- ==== Sys2Proof/Machine/RegisterOps.lean ====
section
/-! DEFINITION. The register-level operations (43_bus_ops.md R143 to R145) and the reserved opcodes (30_encoding.md
R76). `exec…` is the ACCEPT step of R149. -/

namespace Sys2Proof.Machine

/-- `READ` (R143). -/
def execRead (s : State) : Out :=
  accept 0x20#8
    (fun s => [flagsCheck noFlags s, idCheck s.cmdId, broadcastCheck s.cmdId, countCheck Config.maxParams s])
    (fun s => transact s.cmdId Config.readCode [s.cmdAddr, s.cmdCount] s.cmdCount.toNat s) s

/-- `WRITE` (R144): one parameter is the start register, so at most 13 data bytes. -/
def execWrite (s : State) : Out :=
  accept 0x21#8
    (fun s => [flagsCheck stagedFlag s, idCheck s.cmdId, countCheck (Config.maxParams - 1) s, someBytesCheck s])
    (fun s => transact s.cmdId (writeInstr (staged s)) (s.cmdAddr :: operandBytes s) 0 s) s

/-- `TRIGGER` (R145): the constant frame; it has no target operand. -/
def execTrigger (s : State) : Out :=
  accept 0x22#8 (fun s => [flagsCheck noFlags s])
    (fun s => transact Config.broadcastId Config.actionCode [] 0 s) s

/-- A reserved opcode (R76): check 1 of R140 fails. -/
def execReservedOp (op : Byte) (s : State) : Out :=
  accept op (fun _ => [(true, .badOp)]) (fun s => s) s

/-- After the transaction of a `READ`, `WRITE`, `TRIGGER` or setter: `complete(Ok)`. -/
def finishPlain (s : State) : State := complete .ok s

end Sys2Proof.Machine
end

