-- ==== Sys2Proof/Machine/SetOps.lean ====
section
/-! DEFINITION. The setters (44_attribute_ops.md R161 to R168): the ACCEPT step of each, and what the operations of
several transactions do after one (`next` of 43_bus_ops.md R149). -/

namespace Sys2Proof.Machine

/-- `SET_GOAL` (R161), its write; `sub` is 0. -/
def execSetGoal (s : State) : Out :=
  accept 0x30#8
    (fun s => [flagsCheck stagedAndBlocking s, idCheck s.devId,
      (blocking s && s.devId == Config.broadcastId, .broadcastRead), angleCheck s])
    (fun s => setAttr s.devId .goalPosition (encAngle (valInt s)) (staged s) s) s

/-- `pollcnt <- pollcnt + 1` (R161). Past 16 bits the spec gives no value and it is free (log entry 7). -/
def countPoll (s : State) : State :=
  if s.pollcnt = BitVec.allOnes 16 then { s with pollcnt := Config.freeCount s.free, free := s.free + 1 }
  else { s with pollcnt := s.pollcnt + 1#16 }

/-- The end of a blocking `SET_GOAL`: `ERR` is the write's again (R161, R28). -/
def restoreErr (s : State) : State := { s with err := s.werr }

/-- The bound on the polls is reached (R16, R161). -/
def pollLimitReached (s : State) : Bool := s.pollLimit != 0#16 && s.pollcnt == s.pollLimit

/-- After a poll has been counted (R161): the exit test comes before the limit test. -/
def afterPoll (s : State) : State :=
  if byteAt s.rdata 0 = 0#8 then complete .ok (restoreErr s)
  else if pollLimitReached s then complete .pollExpired (restoreErr s)
  else getAttr s.devId .moving s

/-- `SET_GOAL` after a transaction (R161): after the write it ends, or keeps the write's code and polls. -/
def continueSetGoal (s : State) : State :=
  if blocking s then
    if s.sub = 0 then getAttr s.devId .moving { s with werr := s.err, sub := 1 }
    else afterPoll (countPoll s)
  else complete .ok s

/-- `SET_CW_LIMIT` (R162). -/
def execSetCwLimit (s : State) : Out :=
  accept 0x31#8 (fun s => [flagsCheck noFlags s, idCheck s.devId, angleCheck s])
    (fun s => setAttr s.devId .cwLimit (encAngle (valInt s)) false s) s

/-- `SET_CCW_LIMIT` (R163). -/
def execSetCcwLimit (s : State) : Out :=
  accept 0x32#8 (fun s => [flagsCheck noFlags s, idCheck s.devId, angleCheck s])
    (fun s => setAttr s.devId .ccwLimit (encAngle (valInt s)) false s) s

/-- `SET_CR_SPEED` (R164). -/
def execSetCrSpeed (s : State) : Out :=
  accept 0x33#8 (fun s => [flagsCheck noFlags s, idCheck s.devId, speedCheck s])
    (fun s => setAttr s.devId .movingSpeed (encSpeed (valInt s)) false s) s

/-- `SET_TORQUE_LIMIT` (R165). -/
def execSetTorqueLimit (s : State) : Out :=
  accept 0x34#8 (fun s => [flagsCheck noFlags s, idCheck s.devId, fractionCheck s])
    (fun s => setAttr s.devId .torqueLimit (encTorque (valInt s)) false s) s

/-- `TORQUE_ENABLE` (R166). -/
def execTorqueEnable (s : State) : Out :=
  accept 0x35#8 (fun s => [flagsCheck noFlags s, idCheck s.devId, switchCheck s])
    (fun s => setAttr s.devId .torqueEnable (encDirect s.val) false s) s

/-- The CCW limit `SET_MODE` writes (R167): the full sweep in positional mode, else 0. -/
def modeCcw (s : State) : Nat := if s.val = 0#32 then encAngle (Config.sweepMaxDeg * 65536) else 0

/-- The `k`-th of the three writes of `SET_MODE` (R167): CW limit, CCW limit, moving speed. -/
def modeWrite (k : Nat) (s : State) : State :=
  match k with
  | 0 => setAttr s.devId .cwLimit 0 false { s with sub := 0 }
  | 1 => setAttr s.devId .ccwLimit (modeCcw s) false { s with sub := 1 }
  | _ => setAttr s.devId .movingSpeed 0 false { s with sub := 2 }

/-- `SET_MODE` (R167), its first write. -/
def execSetMode (s : State) : Out :=
  accept 0x36#8 (fun s => [flagsCheck noFlags s, idCheck s.devId, switchCheck s]) (modeWrite 0) s

/-- `SET_MODE` after a transaction (R167): always all three, whatever the replies say (R192). -/
def continueSetMode (s : State) : State :=
  if s.sub = 0 then modeWrite 1 s
  else if s.sub = 1 then modeWrite 2 s
  else complete .ok s

/-- `SET_ID` (R168): the target is `CMD_ID`; `DEV_ID` is neither read nor written. -/
def execSetId (s : State) : Out :=
  accept 0x37#8 (fun s => [flagsCheck noFlags s, idCheck s.cmdId, newIdCheck s])
    (fun s => setAttr s.cmdId .busId (encDirect s.val) false s) s

end Sys2Proof.Machine
end

