-- ==== Sys2Proof/Machine/GetOps.lean ====
section
/-! DEFINITION. The getters (44_attribute_ops.md R169 to R174): the ACCEPT step of each, and the scaling of what was
read, whatever the error byte (R174). -/

namespace Sys2Proof.Machine

/-- The checks every getter makes (R140, R169). -/
def getterChecks (s : State) : List (Bool × Completion) :=
  [flagsCheck noFlags s, idCheck s.devId, broadcastCheck s.devId]

/-- `GET_POSITION` (R169). -/
def execGetPosition (s : State) : Out :=
  accept 0x40#8 getterChecks (fun s => getAttr s.devId .position s) s

/-- `GET_TEMPERATURE` (R170). -/
def execGetTemperature (s : State) : Out :=
  accept 0x41#8 getterChecks (fun s => getAttr s.devId .temperature s) s

/-- `GET_VOLTAGE` (R171). -/
def execGetVoltage (s : State) : Out :=
  accept 0x42#8 getterChecks (fun s => getAttr s.devId .voltage s) s

/-- `GET_CURRENT` (R172): the HR family only. -/
def execGetCurrent (s : State) : Out :=
  accept 0x43#8 (fun s => getterChecks s ++ [familyCheck s]) (fun s => getAttr s.devId .current s) s

/-- `IS_MOVING` (R173). -/
def execIsMoving (s : State) : Out :=
  accept 0x44#8 getterChecks (fun s => getAttr s.devId .moving s) s

/-- `GET_POSITION` after its read (R169). -/
def finishGetPosition (s : State) : State := complete .ok (setResult (decPosition (rawRead 2 s)) s)

/-- `GET_TEMPERATURE` after its read (R170). -/
def finishGetTemperature (s : State) : State := complete .ok (setResult (decTemperature (rawRead 1 s)) s)

/-- `GET_VOLTAGE` after its read (R171). -/
def finishGetVoltage (s : State) : State := complete .ok (setResult (decVoltage (rawRead 1 s)) s)

/-- `GET_CURRENT` after its read (R172). -/
def finishGetCurrent (s : State) : State := complete .ok (setResult (decCurrent (rawRead 2 s)) s)

/-- `IS_MOVING` after its read (R173). -/
def finishIsMoving (s : State) : State := complete .ok (setResult (decMoving (rawRead 1 s)) s)

end Sys2Proof.Machine
end

