-- ==== Sys2Proof/Machine/LinkOps.lean ====
section
/-! DEFINITION. The link operations (40_link.md R95, R96). `exec…` is the ACCEPT step of 43_bus_ops.md R149; the
sequencer's steps do the rest. -/

namespace Sys2Proof.Machine

/-- `LINK_TX` (R95): the raw bytes are loaded as they are, without framing. -/
def execLinkTx (s : State) : Out :=
  accept 0x10#8
    (fun s => [flagsCheck noFlags s, countCheck Config.maxParams s, someBytesCheck s])
    (fun s => loadFrame (operandBytes s) s) s

/-- The receive wait of `LINK_RX` begins (R96); `rxn` is 1 (R35) and `wait_cnt` starts (R98); log entry 22. -/
def awaitByte (s : State) : State := { s with pc := .rxb, rxn := 1, waitCnt := 0#32 }

/-- `LINK_RX` (R96). -/
def execLinkRx (s : State) : Out :=
  accept 0x11#8 (fun s => [flagsCheck noFlags s]) awaitByte s

end Sys2Proof.Machine
end

