-- ==== Sys2Proof/Machine/WireOps.lean ====
section
/-! DEFINITION. The wire forms: a status packet, executed by the core's decoder (41_codec.md R104, R106) with
`next` of 43_bus_ops.md R149; the instruction packets, executed by the attached actuators (20_memory.md R52 to
R56). -/

namespace Sys2Proof.Machine

/-- `next` of R149: the operation's own rule after the transaction that was running. The operation is the one `OP`
names, which the host cannot change while it runs (R11, R51). The link operations, the reserved opcodes and the wire
forms run no transaction; their arms are reached by no run (log entry 19). -/
def afterTransaction (s : State) : State :=
  match decodeOp s.op with
  | .read => finishPlain s
  | .write => finishPlain s
  | .trigger => finishPlain s
  | .setGoal => continueSetGoal s
  | .setCwLimit => finishPlain s
  | .setCcwLimit => finishPlain s
  | .setCrSpeed => finishPlain s
  | .setTorqueLimit => finishPlain s
  | .torqueEnable => finishPlain s
  | .setMode => continueSetMode s
  | .setId => finishPlain s
  | .getPosition => finishGetPosition s
  | .getTemperature => finishGetTemperature s
  | .getVoltage => finishGetVoltage s
  | .getCurrent => finishGetCurrent s
  | .isMoving => finishIsMoving s
  | .linkTx => finishPlain s
  | .linkRx => finishPlain s
  | .reservedOp _ => finishPlain s
  | .ipktRead _ _ _ => finishPlain s
  | .ipktWrite _ _ _ => finishPlain s
  | .ipktRegWrite _ _ _ => finishPlain s
  | .ipktAction => finishPlain s
  | .spkt _ _ _ _ _ _ _ => finishPlain s
  | .ipktReserved _ _ _ => finishPlain s

/-- `SPKT` (R62): `decode_status` and `validate` (R104, R106), then `next` (R149). The header is not examined
(R63). -/
def execSpkt (_hdr0 _hdr1 id len error : Byte) (params : List Byte) (chk : Byte) (s : State) : Out :=
  .next (afterTransaction (decodeStatus id len error params chk s))

/-- `IPKT.READ` (R69) on the bus (R52, R53). -/
def execIpktRead (id addr count : Byte) (s : State) : Out := busRead id addr count s

/-- `IPKT.WRITE` (R70) on the bus (R54, R56). -/
def execIpktWrite (id addr : Byte) (data : List Byte) (s : State) : Out := busWrite id (writeNow addr data) s

/-- `IPKT.REG_WRITE` (R70) on the bus (R55, R56). -/
def execIpktRegWrite (id addr : Byte) (data : List Byte) (s : State) : Out := busWrite id (stageWrite addr data) s

/-- `IPKT.ACTION` (R71) on the bus (R55): no actuator replies. -/
def execIpktAction (s : State) : Out := busWrite Config.broadcastId fireStaged s

/-- `IPKT.RESERVED` (R73) on the bus: an actuator it does not reach does nothing (R52); for one it reaches the source
gives the code no meaning (N16). -/
def execIpktReserved (id _code : Byte) (_params : List Byte) (s : State) : Out :=
  if s.bus.actuators.any (reaches id) then .refused .codeNotInSource else .next s

end Sys2Proof.Machine
end

