-- ==== Sys2Proof/Machine/Dispatch.lean ====
section
/-! DEFINITION. One arm per instruction. -/

namespace Sys2Proof.Machine

def exec (i : Instr) (s : State) : Host.Outcome State Fault Refusal :=
  match i with
  | .linkTx => Sys2Proof.Machine.execLinkTx s
  | .linkRx => Sys2Proof.Machine.execLinkRx s
  | .read => Sys2Proof.Machine.execRead s
  | .write => Sys2Proof.Machine.execWrite s
  | .trigger => Sys2Proof.Machine.execTrigger s
  | .setGoal => Sys2Proof.Machine.execSetGoal s
  | .setCwLimit => Sys2Proof.Machine.execSetCwLimit s
  | .setCcwLimit => Sys2Proof.Machine.execSetCcwLimit s
  | .setCrSpeed => Sys2Proof.Machine.execSetCrSpeed s
  | .setTorqueLimit => Sys2Proof.Machine.execSetTorqueLimit s
  | .torqueEnable => Sys2Proof.Machine.execTorqueEnable s
  | .setMode => Sys2Proof.Machine.execSetMode s
  | .setId => Sys2Proof.Machine.execSetId s
  | .getPosition => Sys2Proof.Machine.execGetPosition s
  | .getTemperature => Sys2Proof.Machine.execGetTemperature s
  | .getVoltage => Sys2Proof.Machine.execGetVoltage s
  | .getCurrent => Sys2Proof.Machine.execGetCurrent s
  | .isMoving => Sys2Proof.Machine.execIsMoving s
  | .reservedOp op => Sys2Proof.Machine.execReservedOp op s
  | .ipktRead id addr count => Sys2Proof.Machine.execIpktRead id addr count s
  | .ipktWrite id addr data => Sys2Proof.Machine.execIpktWrite id addr data s
  | .ipktRegWrite id addr data => Sys2Proof.Machine.execIpktRegWrite id addr data s
  | .ipktAction => Sys2Proof.Machine.execIpktAction s
  | .spkt hdr0 hdr1 id len error params chk => Sys2Proof.Machine.execSpkt hdr0 hdr1 id len error params chk s
  | .ipktReserved id code params => Sys2Proof.Machine.execIpktReserved id code params s

end Sys2Proof.Machine
end

