-- ==== Sys2Proof/Machine/HostPort.lean ====
section
/-! DEFINITION. The host's register port (10_state.md R11 to R34). -/

namespace Sys2Proof.Machine

/-- A registered value as the port shows it: the upper bits read 0 (R11). -/
def wide {w : Nat} (v : BitVec w) : Word := v.setWidth 32

/-- The number of the register `OP` (R25). -/
def opReg : BitVec 7 := 13#7

/-- A read of a register (R11): no side effect; reserved numbers and fields read 0; `CTRL` reads 0 (R18). -/
def readReg (r : BitVec 7) (s : State) : Word :=
  match r.toNat with
  | 0 => wide (s.cfg &&& cfgMask)
  | 1 => wide s.bauddiv
  | 2 => wide s.settle
  | 3 => s.timeout
  | 4 => wide s.pollLimit
  | 5 => wide s.devId
  | 8 => wide s.cmdId
  | 9 => wide s.cmdAddr
  | 10 => wide s.cmdCount
  | 11 => wide (s.cmdFlags &&& flagsMask)
  | 12 => s.val
  | 13 => wide s.op
  | 16 => wide (statusByte s)
  | 17 => wide (s.cc &&& 0x0F#8)
  | 18 => wide s.err
  | 19 => wide s.rid
  | 20 => wide s.rcount
  | 21 => s.result
  | 22 => BitVec.ofNat 32 s.rxi
  | n =>
    if 32 ≤ n ∧ n ≤ 45 then wide (byteAt s.wdata (n - 32))
    else if 48 ≤ n ∧ n ≤ 61 then wide (byteAt s.rdata (n - 48))
    else if 64 ≤ n ∧ n ≤ 83 then wide (byteAt s.rxbuf (n - 64))
    else if 96 ≤ n ∧ n ≤ 115 then wide (byteAt s.txbuf (n - 96))
    else 0#32

/-- The registers a write of which is ignored while `STATUS.BUSY = 1` (R11): 0 to 15 and 32 to 45, but for
`CTRL`. -/
def lockedWhileBusy (r : BitVec 7) : Bool :=
  decide ((r.toNat < 16 ∧ r.toNat ≠ 6) ∨ (32 ≤ r.toNat ∧ r.toNat ≤ 45))

/-- The store of a host write, for every register but `OP` (R11 to R26). A value wider than the register is cut to
its low bits (log entry 9). `CTRL.ABORT` sets `abort_req` only while busy (R18); a 1 written to `OVR` or
`LB_MISMATCH` clears it (R26); read-only registers, reserved numbers and reserved fields ignore the write. -/
def storeReg (r : BitVec 7) (v : Word) (s : State) : State :=
  match r.toNat with
  | 0 => { s with cfg := v.setWidth 8 &&& cfgMask }
  | 1 => { s with bauddiv := v.setWidth 16 }
  | 2 => { s with settle := v.setWidth 16 }
  | 3 => { s with timeout := v }
  | 4 => { s with pollLimit := v.setWidth 16 }
  | 5 => { s with devId := v.setWidth 8 }
  | 6 => { s with abortReq := s.abortReq || (v.getLsbD 0 && s.busy) }
  | 8 => { s with cmdId := v.setWidth 8 }
  | 9 => { s with cmdAddr := v.setWidth 8 }
  | 10 => { s with cmdCount := v.setWidth 8 }
  | 11 => { s with cmdFlags := v.setWidth 8 &&& flagsMask }
  | 12 => { s with val := v }
  | 16 => { s with ovr := s.ovr && !v.getLsbD 4, lbMismatch := s.lbMismatch && !v.getLsbD 5 }
  | n => if 32 ≤ n ∧ n ≤ 45 then { s with wdata := s.wdata.setIfInBounds (n - 32) (v.setWidth 8) } else s

/-- A host write (R11). A write of `OP` is the instruction it names (R25, R74); it is ignored while busy by
acceptance itself (R140). Under reset every host write is ignored (R215). -/
def hostWrite (r : BitVec 7) (v : Word) (s : State) : Out :=
  if s.rst then .next s
  else if r = opReg then exec (decodeOp (v.setWidth 8)) s
  else if s.busy && lockedWhileBusy r then .next s
  else .next (storeReg r v s)

/-- A host read: the value appears at the port and nothing else changes (R11). -/
def hostRead (r : BitVec 7) (s : State) : State := { s with hostData := readReg r s }

end Sys2Proof.Machine
end

