-- ==== Sys2Proof/Machine/Sequencer.lean ====
section
/-! DEFINITION. The sequencer's steps, the environment's steps and the reset input: the rows of 43_bus_ops.md R149. A
step that is not enabled changes nothing (log entry 2). The conditions on `wait_cnt` are dropped, as R149 says of
the byte-event level (log entry 6). -/

namespace Sys2Proof.Machine

/-- `AFTER_BYTE` (R149). -/
def afterByte (s : State) : State :=
  if s.txi < s.txn then { s with pc := .txb }
  else if decodeOp s.op = .linkTx then complete .ok s
  else if s.tgt = Config.broadcastId then afterTransaction (broadcastDone s)
  else enterSettle s

/-- The byte of `TXBUF` on its way, `TXBUF[txi]`. -/
def currentByte (s : State) : Byte := byteAt s.txbuf s.txi

/-- `TX` (R149, R87, R88). With `CFG.LB = 1` every operation that transmits passes through `LBD`, `TRIGGER` and
broadcast writes too, whatever R144 and R145 say of their waits (log entry 28). -/
def seqTx (heard : List Byte) (s : State) : State :=
  if s.pc = .txb then
    if loopBack s then { sendByte (currentByte s) heard s with pc := .lbd, waitCnt := 0#32 }
    else afterByte { sendByte (currentByte s) heard s with txi := s.txi + 1 }
  else s

/-- `DRAIN` (R149, R88): the drained byte is compared and discarded. -/
def seqDrain (s : State) : State :=
  if s.pc = .lbd ∧ s.rxq ≠ [] then
    afterByte { popRxq s with
      lbMismatch := s.lbMismatch || headRxq s != currentByte s
      txi := s.txi + 1 }
  else s

/-- `SETTLED` (R149, R142). -/
def seqSettled (s : State) : State := if s.pc = .settle then enterReceive s else s

/-- One byte of a status packet is taken (R141, R149 `RX`). -/
def receiveByte (s : State) : State :=
  { popRxq s with
    rxbuf := s.rxbuf.setIfInBounds s.rxi (headRxq s)
    rxi := s.rxi + 1
    waitCnt := 0#32 }

/-- The status packet in `RXBUF` (R104). -/
def receivedPacket (s : State) : Instr := statusPacket s.rxbuf.toList s.nexp

/-- `RX` of `LINK_RX` (R96, R149). -/
def finishLinkRx (s : State) : State := complete .ok { popRxq s with result := wide (headRxq s) }

/-- `RX` (R149): the last byte of a status packet makes the decoder execute it. -/
def seqRx (s : State) : Out :=
  if s.pc = .rxb ∧ s.rxq ≠ [] then
    if decodeOp s.op = .linkRx then .next (finishLinkRx s)
    else if (receiveByte s).rxi = (receiveByte s).rxn then exec (receivedPacket (receiveByte s)) (receiveByte s)
    else .next (receiveByte s)
  else .next s

/-- The timeout can expire (R98, R149 `TIMEOUT`). -/
def timeoutEnabled (s : State) : Bool :=
  (s.pc == .lbd || s.pc == .rxb) && s.timeout != 0#32 && s.rxq.isEmpty

/-- `wait_cnt` once the timeout has expired (R98: it has reached `TIMEOUT`). -/
def expireTimeout (s : State) : State :=
  { s with waitCnt := if s.waitCnt.toNat < s.timeout.toNat then s.timeout else s.waitCnt }

/-- `TIMEOUT` (R149, R98). A wait in `LBD` that ends so leaves `RXN` and `RXBUF` as they were (log entry 34). -/
def seqTimeout (s : State) : State := if timeoutEnabled s then complete .busTimeout (expireTimeout s) else s

/-- `ABORT` (R149, R148). A wait in `LBD` or `SETTLE` that ends so leaves `RXN` and `RXBUF` as they were (log entry
34). -/
def seqAbort (s : State) : State := if s.abortReq && waiting s then complete .aborted s else s

/-- The level of `rst` changes (R215): while it is high the core is in its reset state. -/
def setRst (level : Bool) (s : State) : State :=
  if level then { resetCore s with rst := true } else { s with rst := false }

/-- A step of the sequencer; there is none under reset (R215). -/
def unlessReset (s : State) (go : Out) : Out := if s.rst then .next s else go

/-- The core is still sending the frame (R141): the bytes on the line are the head of it. -/
def frameUnderWay (s : State) : Bool := s.pc == .txb || s.pc == .lbd

/-- The attached actuators act on the next instruction packet on the line (R52 to R56), however soon after the last one
it comes: whether an actuator needs a gap is not in the source (R228, K21; log entry 29). While the bytes of a frame
are still coming, or it is cut short and addressed to nobody attached, there is nothing to act on; bytes sent after a
frame cut short count as its rest, as its `LEN` says (R197; log entry 35). -/
def actuatorsAct (s : State) : Out :=
  match s.bus.wire with
  | [] => .next s
  | w :: ws =>
    match decode .lineOut (w :: ws) with
    | .ok (i, rest) => exec i (takeWire rest s)
    | .error e =>
      if e = .truncated ∧ (frameUnderWay s = true ∨ mayReach (w :: ws) s.bus.actuators = false) then .next s
      else unreadable e s

/-- What one event does. -/
def runEvent (e : Event) (s : State) : Out :=
  match e with
  | .hostWrite r v => hostWrite r v s
  | .hostRead r => .next (hostRead r s)
  | .tx heard => unlessReset s (.next (seqTx heard s))
  | .drain => unlessReset s (.next (seqDrain s))
  | .settled => unlessReset s (.next (seqSettled s))
  | .rx => unlessReset s (seqRx s)
  | .timeout => unlessReset s (.next (seqTimeout s))
  | .abort => unlessReset s (.next (seqAbort s))
  | .line b => .next (capture b s)
  | .ticks n => unlessReset s (.next (passTicks n s))
  | .setRst level => .next (setRst level s)
  | .attach id hr flat => .next (attachActuator id hr flat s)
  | .actuatorSets k addr value => .next (changeActuator k (fun a => storeByte a addr.toNat value) s)
  | .actuatorFault k error => .next (changeActuator k (fun a => { a with error := error }) s)
  | .actuators => actuatorsAct s
  | .reply => .next (deliverReply s)
  | .replyLost => unlessReset s (.next (loseReply s))

/-- The state with its first event taken off. -/
def popEvent (s : State) : State := { s with events := s.events.tail }

/-- The bytes of a frame: as many as its `LEN` byte says, or all of them. -/
def frameOf (bytes : List Byte) : List Byte := bytes.take (frameLength bytes)

/-- A word of the opcode table put where the next step fetches its instruction: a packet lies on the line before the
actuators, an opcode is what the host writes next. -/
def placeWord (s : State) (bytes : List Byte) : State :=
  match tableChannel bytes with
  | .host =>
    { s with events := .hostWrite opReg (wide (bytes.headD 0#8)) :: s.events }
  | .lineOut => { s with bus := { s.bus with wire := frameOf bytes }, events := .actuators :: s.events }
  | .lineIn _ => s

end Sys2Proof.Machine
end

