-- ==== Sys2Proof/Machine/Step.lean ====
section
/-! DEFINITION. One step: the next event of the interleaving, or nothing where none is left (log entry 1). -/

namespace Sys2Proof.Machine

/-- One step of the machine. With no event left no agent moves: the sequencer "has no step" of its own (R7
`wait_until`, R149). -/
def step (s : State) : Host.Outcome State Fault Refusal :=
  match s.events with
  | [] => .next s
  | e :: _ => runEvent e (popEvent s)

/-- `s` with an instruction word stored where the next step fetches it (log entry 3). -/
def State.withFetchWord (s : State) (nbits w : Nat) : State := placeWord s (tableBytes nbits w)

end Sys2Proof.Machine
end

