-- ==== Sys2Proof/Safety.lean ====
section
/-! DEFINITION. The terms the statements are made in: the invariant of the machine, the states an accepted and a refused
operation leaves (written out field by field, not through the machine's own operations), and runs of several steps. -/

namespace Sys2Proof.Machine

/-- The opcode in `OP` is one of the 18 of R75. -/
def isOperation (s : State) : Prop := isReservedOp s.op = false

/-- What holds of every state a run reaches. -/
structure MachineInv (s : State) : Prop where
  /-- `BUSY` exactly when `pc` is not `IDLE` (R35) -/
  busyPhase : s.busy = true ↔ s.pc ≠ .idle
  /-- `BUSY` and `DONE` are never both 1 (R26) -/
  notBoth : ¬(s.busy = true ∧ s.done = true)
  /-- `DIR` is `OUT` only inside a transmit step (R36) -/
  lineIn : s.dir = .input
  /-- reserved bits of `CFG` read 0 (R12) -/
  cfgReserved : s.cfg &&& 0xF0#8 = 0#8
  /-- reserved bits of `CMD_FLAGS` read 0 (R22) -/
  flagsReserved : s.cmdFlags &&& 0xFC#8 = 0#8
  /-- completion codes 0xC to 0xF are never written (R191) -/
  ccCode : s.cc.toNat ≤ 0xB
  /-- `RXQ` holds at most 32 bytes (R37, R92) -/
  queue : s.rxq.length ≤ 32
  /-- `txi` is bounded by `txn`, which is at most 20 (R35) -/
  frame : s.txi ≤ s.txn ∧ s.txn ≤ 20
  /-- a byte is left to send in `TXB`, to drain in `LBD` (R35) -/
  sending : s.pc = .txb ∨ s.pc = .lbd → s.txi < s.txn
  /-- at most 14 parameters are expected (R35) -/
  expected : s.nexp ≤ 14
  /-- `rxi` and `rxn` are at most 20 (R35) -/
  reply : s.rxi ≤ 20 ∧ s.rxn ≤ 20
  /-- a byte of `6 + nexp` is left to receive (R35, R141) -/
  receiving : s.pc = .rxb → s.op ≠ 0x11#8 → s.rxi < s.rxn ∧ s.rxn = 6 + s.nexp
  /-- `sub` is 0 to 2 (R35) -/
  transactions : s.sub ≤ 2
  /-- at most 14 bytes of `RDATA` are valid (R30) -/
  count : s.rcount.toNat ≤ 14
  /-- the target of a transaction is never 255 (R35, R64) -/
  target : s.tgt ≠ 0xFF#8
  /-- nor is `DEV_ID` while an operation of several transactions runs (R140) -/
  device : s.busy = true → s.op = 0x30#8 ∨ s.op = 0x36#8 → s.devId ≠ 0xFF#8
  /-- `abort_req` is set only while an operation runs (R18, R146) -/
  abortRunning : s.abortReq = true → s.busy = true
  /-- what runs is an operation of R75 (R140) -/
  running : s.busy = true → isOperation s
  /-- `LINK_RX` only receives (R96) -/
  rawReceive : s.busy = true → s.op = 0x11#8 → s.pc = .rxb
  /-- `LINK_TX` only transmits (R95) -/
  rawTransmit : s.busy = true → s.op = 0x10#8 → s.pc = .txb ∨ s.pc = .lbd
  /-- nothing runs under reset (R215) -/
  underReset : s.rst = true → s.pc = .idle
  /-- every actuator's register list is in canonical form -/
  memories : ∀ a ∈ s.bus.actuators, Memory.wf a.regs = true
  /-- every staged write held is one R44 gives a meaning -/
  stagedRanges : ∀ a ∈ s.bus.actuators, ∀ p, a.staged = some p →
    p.1.toNat + p.2.length ≤ 256 ∧ (a.flatRanges = true ∨ crossesRegister a.hr p.1.toNat p.2.length = false)

/-- The state after an operation has been accepted and its first frame loaded (R140, R141): the fields named are
written, every other field is as before. -/
def acceptedState (op : Byte) (target : Byte) (frame : List Byte) (nexp : Nat) (s : State) : State :=
  { s with
    op := op
    busy := true
    done := false
    malformed := false
    faultSeen := false
    cc := 0#8
    abortReq := false
    sub := 0
    pollcnt := 0#16
    werr := 0#8
    txbuf := fill s.txbuf 0 frame
    txn := frame.length
    txi := 0
    pc := .txb
    tgt := target
    nexp := nexp }

/-- The state after a refusal with completion code `code` (R140, R197): the fields named are written, every other
field is as before. -/
def refusedState (op code : Byte) (s : State) : State :=
  { s with
    op := op
    busy := false
    done := true
    malformed := false
    faultSeen := false
    cc := code
    abortReq := false
    sub := 0
    pollcnt := 0#16
    werr := 0#8
    pc := .idle }

/-- The state after the next transaction of a running operation has been loaded (R141). -/
def nextFrameState (target : Byte) (frame : List Byte) (nexp : Nat) (s : State) : State :=
  { s with
    txbuf := fill s.txbuf 0 frame
    txn := frame.length
    txi := 0
    pc := .txb
    tgt := target
    nexp := nexp }

/-- The state after a running operation has ended with the code byte `code` (R146). -/
def endedState (code : Byte) (s : State) : State :=
  { s with
    cc := code
    pc := .idle
    abortReq := false
    busy := false
    done := true }

/-- The registers `decode_status` writes (R104, R106), every other field as before. -/
def decodedState (id err : Byte) (params : List Byte) (bad : Bool) (s : State) : State :=
  { s with
    rid := id
    err := err
    rcount := BitVec.ofNat 8 params.length
    rdata := fill s.rdata 0 params
    faultSeen := s.faultSeen || err != 0#8
    malformed := s.malformed || bad }

/-- The frame of a 2-byte attribute write (R160): `FF FF t 05 instr addr lo hi chk`. -/
def wideFrame (target instr addr : Byte) (raw : Nat) : List Byte :=
  [0xFF#8, 0xFF#8, target, 0x05#8, instr, addr, BitVec.ofNat 8 raw, BitVec.ofNat 8 (raw / 256),
    0xFF#8 - (target + 0x05#8 + instr + addr + BitVec.ofNat 8 raw + BitVec.ofNat 8 (raw / 256))]

/-- The frame of a 1-byte attribute write (R160): `FF FF t 04 03 addr v chk`. -/
def narrowFrame (target addr value : Byte) : List Byte :=
  [0xFF#8, 0xFF#8, target, 0x04#8, 0x03#8, addr, value, 0xFF#8 - (target + 0x04#8 + 0x03#8 + addr + value)]

/-- The frame of a read (R69): `FF FF t 04 02 addr count chk`. -/
def readFrame (target addr count : Byte) : List Byte :=
  [0xFF#8, 0xFF#8, target, 0x04#8, 0x02#8, addr, count, 0xFF#8 - (target + 0x04#8 + 0x02#8 + addr + count)]

/-- What follows the last byte of a frame (R149 `AFTER_BYTE`, R147): `u` is the state with that byte sent, and drained in
loop-back mode, `t` the state the same step leaves. `LINK_TX` ends; an addressed transaction begins its settle interval;
a broadcast one clears `ERR` and `RCOUNT` and goes on with the operation's own rule (R161, R167). -/
def FrameSent (u t : State) : Prop :=
  let ended : State :=
    { endedState (if u.malformed then 0xB#8 else 0#8) u with err := 0#8, rcount := 0#8 }
  let write (addr : Byte) (raw k : Nat) : State :=
    { nextFrameState u.devId (wideFrame u.devId 0x03#8 addr raw) 0 u with err := 0#8, rcount := 0#8, sub := k }
  (u.op = 0x10#8 → t = endedState (if u.malformed then 0xB#8 else 0#8) u) ∧
  (u.op ≠ 0x10#8 → u.tgt ≠ 0xFE#8 → t = { u with pc := .settle, waitCnt := 0#32 }) ∧
  (u.tgt = 0xFE#8 → u.op ∈ [0x21#8, 0x22#8, 0x31#8, 0x32#8, 0x33#8, 0x34#8, 0x35#8, 0x37#8] → t = ended) ∧
  (u.tgt = 0xFE#8 → u.op = 0x30#8 → u.cmdFlags.getLsbD 1 = false → t = ended) ∧
  (u.tgt = 0xFE#8 → u.op = 0x36#8 →
    (u.sub = 0 → t = write 0x08#8 (if u.val = 0#32 then 3413 else 0) 1) ∧
    (u.sub = 1 → t = write 0x20#8 0 2) ∧ (u.sub = 2 → t = ended))

/-- The core's registers that the host writes (R12 to R24), `OP` apart, are the same. -/
def SameOperands (s t : State) : Prop :=
  t.cfg = s.cfg ∧ t.bauddiv = s.bauddiv ∧ t.settle = s.settle ∧ t.timeout = s.timeout ∧
    t.pollLimit = s.pollLimit ∧ t.devId = s.devId ∧ t.cmdId = s.cmdId ∧ t.cmdAddr = s.cmdAddr ∧
    t.cmdCount = s.cmdCount ∧ t.cmdFlags = s.cmdFlags ∧ t.val = s.val ∧ t.wdata = s.wdata

/-- The result registers (R28 to R33) are the same. -/
def SameResults (s t : State) : Prop :=
  t.err = s.err ∧ t.rid = s.rid ∧ t.rcount = s.rcount ∧ t.result = s.result ∧ t.rdata = s.rdata ∧ t.rxi = s.rxi

/-- The run of `evs`, one step of the machine for each, from `s`. -/
def playing (evs : List Event) (s : State) : Host.Outcome State Fault Refusal :=
  Host.Core.run Sys2Proof.core evs.length { s with events := evs }

/-- The sequencer sends `n` bytes on a line that shows the receiver nothing. -/
def sendEvents (n : Nat) : List Event := List.replicate n (.tx [])

/-- The bytes of a reply arrive one by one, each taken at once. -/
def receiveEvents : List Byte → List Event
  | [] => []
  | b :: bs => .line b :: .rx :: receiveEvents bs

end Sys2Proof.Machine
end

