-- ==== Sys2Proof/Certificates/Slice0/Obligations.lean ====
section
/-! DEFINITION. The statements for the provers. Each cites in OBLIGATIONS.json the rule of spec/ it states. -/

open Sys2Proof Sys2Proof.Machine

/-! ## Encoding -/

/-- Decoding an encoded well-formed instruction gives it back, with the bytes after it, for every form and every
operand. -/
def Obligations.DecodeUndoesEncode : Prop :=
  ∀ (i : Instr) (rest : List Byte), i.wellFormed = true →
    decode (channelOf i) (encode i ++ rest) = .ok (i, rest)

/-- What the decoder reads from the line is well formed, and the bytes it read are its encoding: no packet has two
readings and none is read loosely. -/
def Obligations.DecodedPacketsAreEncodings : Prop :=
  ∀ (bs rest : List Byte) (i : Instr), decode .lineOut bs = .ok (i, rest) →
    i.wellFormed = true ∧ bs = encode i ++ rest

/-- All eight bits of `OP` are decoded: every value is one of the 18 opcodes or reserved (R75, R76). -/
def Obligations.EveryOpcodeByteIsDecoded : Prop :=
  ∀ op : Byte, (decodeOp op).wellFormed = true ∧ encode (decodeOp op) = [op] ∧
    (decodeOp op = .reservedOp op ↔ isReservedOp op = true)

/-- Words written out from R61, R62, R69, R70, R71 and R75. -/
def Obligations.SpecWordsDecode : Prop :=
  decode .host [0x20#8] = .ok (.read, []) ∧ decode .host [0x37#8] = .ok (.setId, []) ∧
  decode .host [0x45#8] = .ok (.reservedOp 0x45#8, []) ∧
  decode .lineOut [0xFF#8, 0xFF#8, 0x01#8, 0x04#8, 0x02#8, 0x24#8, 0x02#8, 0xD2#8] =
    .ok (.ipktRead 0x01#8 0x24#8 0x02#8, []) ∧
  decode .lineOut [0xFF#8, 0xFF#8, 0x01#8, 0x05#8, 0x03#8, 0x1E#8, 0xAA#8, 0x06#8, 0x28#8] =
    .ok (.ipktWrite 0x01#8 0x1E#8 [0xAA#8, 0x06#8], []) ∧
  decode .lineOut [0xFF#8, 0xFF#8, 0x01#8, 0x05#8, 0x04#8, 0x1E#8, 0x00#8, 0x04#8, 0xD3#8] =
    .ok (.ipktRegWrite 0x01#8 0x1E#8 [0x00#8, 0x04#8], []) ∧
  decode .lineOut [0xFF#8, 0xFF#8, 0xFE#8, 0x02#8, 0x04#8, 0xFB#8] = .ok (.ipktAction, []) ∧
  decode (.lineIn 1) [0xFF#8, 0xFF#8, 0x01#8, 0x03#8, 0x20#8, 0x78#8, 0x63#8] =
    .ok (.spkt 0xFF#8 0xFF#8 0x01#8 0x03#8 0x20#8 [0x78#8] 0x63#8, [])

/-- Checksum round trip (R107). -/
def Obligations.ChecksumRoundTrip : Prop :=
  ∀ (id instr : Byte) (params : List Byte), params.length ≤ 14 →
    let frame := packet id instr params
    let covered := (frame.drop 2).take (params.length + 3)
    checksum covered = frame.getD (5 + params.length) 0#8 ∧
      0xFF#8 - frame.getD (5 + params.length) 0#8 - byteSum covered = 0#8

/-! ## A step runs the decoded instruction -/

/-- A host write of `OP` (register 13) runs the instruction its low byte decodes to. That a value above 255 is cut to
its low byte is the model's choice (log entry 9). -/
def Obligations.StepRunsHostOperation : Prop :=
  ∀ (s : State) (v : Word) (es : List Event) (i : Instr) (rest : List Byte),
    s.events = .hostWrite 13#7 v :: es → s.rst = false → decode .host [v.setWidth 8] = .ok (i, rest) →
    step s = exec i { s with events := es }

/-- The attached actuators run the instruction packet at the head of the line's bytes and leave the rest. -/
def Obligations.StepRunsInstructionPacket : Prop :=
  ∀ (s : State) (es : List Event) (i : Instr) (rest : List Byte),
    s.events = .actuators :: es → decode .lineOut s.bus.wire = .ok (i, rest) →
    step s = exec i { s with events := es, bus := { s.bus with wire := rest } }

/-- The last byte of a status packet makes the core run the packet in `RXBUF`, read by position with the count the
operation expects. -/
def Obligations.StepRunsStatusPacket : Prop :=
  ∀ (s : State) (es : List Event) (b : Byte) (q : List Byte) (i : Instr) (rest : List Byte),
    s.events = .rx :: es → s.rst = false → s.pc = .rxb → s.rxq = b :: q → s.op ≠ 0x11#8 → s.rxi + 1 = s.rxn →
    let t : State :=
      { s with
        events := es
        rxq := q
        rxbuf := s.rxbuf.setIfInBounds s.rxi b
        rxi := s.rxi + 1
        waitCnt := 0#32 }
    decode (.lineIn s.nexp) t.rxbuf.toList = .ok (i, rest) → step s = exec i t

/-! ## Invariants, reset -/

/-- Every step keeps the invariant. -/
def Obligations.StepKeepsInvariant : Prop :=
  ∀ s t : State, MachineInv s → step s = .next t → MachineInv t

/-- The state after reset meets the invariant. -/
def Obligations.ResetMeetsInvariant : Prop := MachineInv State.reset

/-- The reset values R216 gives; those of `BAUDDIV` and `SETTLE` modulo their 16 bits (log entry 4). -/
def Obligations.ResetValues : Prop :=
  SameOperands
    { State.reset with
      cfg := 0#8, timeout := 0#32, pollLimit := 0#16, devId := 0#8, cmdId := 0#8, cmdAddr := 0#8, cmdCount := 0#8,
      cmdFlags := 0#8, val := 0#32 } State.reset ∧
  State.reset.bauddiv.toNat = (2 * Config.fClk + 1000000) / 2000000 % 65536 ∧
  State.reset.settle.toNat = (Config.fClk + 49999) / 50000 % 65536 ∧
  State.reset.op = 0#8 ∧ statusByte State.reset = 0#8 ∧ State.reset.cc = 0#8 ∧ State.reset.err = 0#8 ∧
  State.reset.rid = 0#8 ∧ State.reset.rcount = 0#8 ∧ State.reset.result = 0#32 ∧ State.reset.rxi = 0 ∧
  State.reset.pc = .idle ∧ State.reset.sub = 0 ∧ State.reset.tgt = 0#8 ∧ State.reset.txn = 0 ∧ State.reset.txi = 0 ∧
  State.reset.nexp = 0 ∧ State.reset.rxn = 0 ∧ State.reset.pollcnt = 0#16 ∧ State.reset.werr = 0#8 ∧
  State.reset.waitCnt = 0#32 ∧ State.reset.abortReq = false ∧ State.reset.dir = .input ∧ State.reset.rxq = []

/-- The reset input (R215, R217): its rising edge puts the core in its reset state and leaves the line and the
actuators; while it is high, host writes, the sequencer, time and bytes on the line, those of a status packet among
them, change nothing of the core; its falling edge changes nothing but the level. The model's choices in it: the buffers are zeros (log entry 5), the edge acts at once
(log entry 20), and the read data of the host port stays (log entry 21). -/
def Obligations.ResetInput : Prop :=
  (∀ (s : State) (es : List Event), s.events = .setRst true :: es →
    step s = .next
      { State.reset with rst := true, hostData := s.hostData, bus := s.bus, events := es, free := s.free }) ∧
  (∀ (s : State) (e : Event) (es : List Event), s.rst = true → s.events = e :: es →
    ((∃ r v, e = .hostWrite r v) ∨ (∃ heard, e = .tx heard) ∨ e = .drain ∨ e = .settled ∨ e = .rx ∨
      e = .timeout ∨ e = .abort ∨ (∃ b, e = .line b) ∨ (∃ n, e = .ticks n) ∨ e = .replyLost) →
    step s = .next { s with events := es }) ∧
  (∀ (s : State) (es : List Event), s.events = .setRst false :: es →
    step s = .next { s with rst := false, events := es }) ∧
  (∀ (s : State) (es : List Event), s.rst = true → s.events = .reply :: es →
    step s = .next { s with events := es, bus := { s.bus with reply := s.bus.reply.tail } })

/-! ## Acceptance: where each host operation completes its first step -/

/-- `LINK_TX` (R95): the raw bytes are loaded, without framing. `LINK_RX` (R96): the receive wait for one byte begins;
that it sets `rxn` to 1 and clears `wait_cnt` is the model's inference (R35, R98; log entry 22). Every field not named
is as before. -/
def Obligations.LinkOperationsAccepted : Prop :=
  (∀ s : State, s.busy = false → s.cmdFlags = 0#8 → 1 ≤ s.cmdCount.toNat → s.cmdCount.toNat ≤ 14 →
    exec .linkTx s = .next
      { acceptedState 0x10#8 s.tgt (s.wdata.toList.take s.cmdCount.toNat) s.nexp s with txn := s.cmdCount.toNat }) ∧
  (∀ s : State, s.busy = false → s.cmdFlags = 0#8 →
    exec .linkRx s = .next
      { refusedState 0x11#8 0#8 s with busy := true, done := false, pc := .rxb, rxn := 1, waitCnt := 0#32 })

/-- `READ` (R143): the frame `FF FF id 04 02 addr n chk`, and `n` parameters expected. `TRIGGER` (R145, R71): the
constant frame `FF FF FE 02 04 FB`. -/
def Obligations.ReadAndTriggerAccepted : Prop :=
  (∀ s : State, s.busy = false → s.cmdFlags = 0#8 → s.cmdId.toNat ≤ 253 → s.cmdCount.toNat ≤ 14 →
    exec .read s = .next
      (acceptedState 0x20#8 s.cmdId (readFrame s.cmdId s.cmdAddr s.cmdCount) s.cmdCount.toNat s)) ∧
  (∀ s : State, s.busy = false → s.cmdFlags = 0#8 →
    exec .trigger s = .next
      (acceptedState 0x22#8 0xFE#8 [0xFF#8, 0xFF#8, 0xFE#8, 0x02#8, 0x04#8, 0xFB#8] 0 s))

/-- `WRITE` (R144): the frame `FF FF id (n+3) instr addr d0 .. d(n-1) chk`, code 0x04 when staged, else 0x03. -/
def Obligations.WriteAccepted : Prop :=
  ∀ s : State, s.busy = false → (s.cmdFlags = 0#8 ∨ s.cmdFlags = 1#8) → s.cmdId.toNat ≤ 254 →
    1 ≤ s.cmdCount.toNat → s.cmdCount.toNat ≤ 13 →
    let data := s.wdata.toList.take s.cmdCount.toNat
    let len : Byte := s.cmdCount + 3#8
    let instr : Byte := if s.cmdFlags = 1#8 then 0x04#8 else 0x03#8
    exec .write s = .next
      (acceptedState 0x21#8 s.cmdId
        ([0xFF#8, 0xFF#8, s.cmdId, len, instr, s.cmdAddr] ++ data ++
          [0xFF#8 - (s.cmdId + len + instr + s.cmdAddr + byteSum data)]) 0 s)

/-- `SET_GOAL` (R161, R118): the angle scaled by `round(4095 * V / (360 * 65536))`, a half going up. -/
def Obligations.SetGoalAccepted : Prop :=
  ∀ s : State, s.busy = false → s.cmdFlags &&& 0xFC#8 = 0#8 → s.devId ≠ 0xFF#8 →
    (s.cmdFlags.getLsbD 1 = true → s.devId ≠ 0xFE#8) → 0 ≤ s.val.toInt → s.val.toInt ≤ 23592960 →
    exec .setGoal s = .next
      (acceptedState 0x30#8 s.devId
        (wideFrame s.devId (if s.cmdFlags.getLsbD 0 then 0x04#8 else 0x03#8) 0x1E#8
          ((8190 * s.val.toInt.toNat + 23592960) / 47185920)) 0 s)

/-- `SET_CW_LIMIT` and `SET_CCW_LIMIT` (R162, R163). -/
def Obligations.AngleLimitsAccepted : Prop :=
  ∀ s : State, s.busy = false → s.cmdFlags = 0#8 → s.devId ≠ 0xFF#8 →
    0 ≤ s.val.toInt → s.val.toInt ≤ 23592960 →
    let raw := (8190 * s.val.toInt.toNat + 23592960) / 47185920
    exec .setCwLimit s = .next (acceptedState 0x31#8 s.devId (wideFrame s.devId 0x03#8 0x06#8 raw) 0 s) ∧
    exec .setCcwLimit s = .next (acceptedState 0x32#8 s.devId (wideFrame s.devId 0x03#8 0x08#8 raw) 0 s)

/-- `SET_CR_SPEED` (R164, R119): magnitude `round(1023 * |V| / 65536)`, and 1024 more when `V < 0` (bit 10).
`SET_TORQUE_LIMIT` and `TORQUE_ENABLE` (R165, R166, R120). -/
def Obligations.SpeedAndTorqueAccepted : Prop :=
  (∀ s : State, s.busy = false → s.cmdFlags = 0#8 → s.devId ≠ 0xFF#8 →
    -65536 ≤ s.val.toInt → s.val.toInt ≤ 65536 →
    exec .setCrSpeed s = .next
      (acceptedState 0x33#8 s.devId
        (wideFrame s.devId 0x03#8 0x20#8
          ((2046 * s.val.toInt.natAbs + 65536) / 131072 + (if s.val.toInt < 0 then 1024 else 0))) 0 s)) ∧
  (∀ s : State, s.busy = false → s.cmdFlags = 0#8 → s.devId ≠ 0xFF#8 →
    0 ≤ s.val.toInt → s.val.toInt ≤ 65536 →
    exec .setTorqueLimit s = .next
      (acceptedState 0x34#8 s.devId
        (wideFrame s.devId 0x03#8 0x22#8 ((2046 * s.val.toInt.toNat + 65536) / 131072)) 0 s)) ∧
  (∀ s : State, s.busy = false → s.cmdFlags = 0#8 → s.devId ≠ 0xFF#8 → (s.val = 0#32 ∨ s.val = 1#32) →
    exec .torqueEnable s = .next
      (acceptedState 0x35#8 s.devId (narrowFrame s.devId 0x18#8 (s.val.setWidth 8)) 0 s))

/-- `SET_MODE` and `SET_ID` (R167, R168): the first write of the three, CW limit 0; the new ID to `CMD_ID`. -/
def Obligations.ModeAndIdAccepted : Prop :=
  (∀ s : State, s.busy = false → s.cmdFlags = 0#8 → s.devId ≠ 0xFF#8 → (s.val = 0#32 ∨ s.val = 1#32) →
    exec .setMode s = .next (acceptedState 0x36#8 s.devId (wideFrame s.devId 0x03#8 0x06#8 0) 0 s)) ∧
  (∀ s : State, s.busy = false → s.cmdFlags = 0#8 → s.cmdId ≠ 0xFF#8 → 0 ≤ s.val.toInt → s.val.toInt ≤ 253 →
    exec .setId s = .next
      (acceptedState 0x37#8 s.cmdId (narrowFrame s.cmdId 0x03#8 (s.val.setWidth 8)) 0 s))

/-- The getters (R169 to R173): a read of the attribute's register and width. -/
def Obligations.GettersAccepted : Prop :=
  ∀ s : State, s.busy = false → s.cmdFlags = 0#8 → s.devId.toNat ≤ 253 →
    exec .getPosition s = .next (acceptedState 0x40#8 s.devId (readFrame s.devId 0x24#8 2#8) 2 s) ∧
    exec .getTemperature s = .next (acceptedState 0x41#8 s.devId (readFrame s.devId 0x2B#8 1#8) 1 s) ∧
    exec .getVoltage s = .next (acceptedState 0x42#8 s.devId (readFrame s.devId 0x2A#8 1#8) 1 s) ∧
    exec .isMoving s = .next (acceptedState 0x44#8 s.devId (readFrame s.devId 0x2E#8 1#8) 1 s) ∧
    (s.cfg.getLsbD 0 = true →
      exec .getCurrent s = .next (acceptedState 0x43#8 s.devId (readFrame s.devId 0x44#8 2#8) 2 s))

/-- A reserved opcode ends at once with `BadOp` (R76): nothing is transmitted, no result register changes. It is every
value of the ranges R76 lists, and no other. -/
def Obligations.ReservedOpcodeCompletes : Prop :=
  (∀ (s : State) (op : Byte), s.busy = false → exec (.reservedOp op) s = .next (refusedState op 1#8 s)) ∧
  (∀ op : Byte, decodeOp op = .reservedOp op ↔
    op.toNat ≤ 0x0F ∨ (0x12 ≤ op.toNat ∧ op.toNat ≤ 0x1F) ∨ (0x23 ≤ op.toNat ∧ op.toNat ≤ 0x2F) ∨
      (0x38 ≤ op.toNat ∧ op.toNat ≤ 0x3F) ∨ 0x45 ≤ op.toNat)

/-! ## Acceptance: what is refused, and with which code -/

/-- The link and register operations: the first failing check of R140 gives the code (R194). -/
def Obligations.LinkAndRegisterRefusals : Prop :=
  ∀ (s : State) (c : Byte), s.busy = false →
    ((if s.cmdFlags ≠ 0#8 then c = 2#8 else if 14 < s.cmdCount.toNat then c = 6#8 else
        s.cmdCount = 0#8 ∧ c = 7#8) → exec .linkTx s = .next (refusedState 0x10#8 c s)) ∧
    (s.cmdFlags ≠ 0#8 ∧ c = 2#8 → exec .linkRx s = .next (refusedState 0x11#8 c s)) ∧
    ((if s.cmdFlags ≠ 0#8 then c = 2#8 else if s.cmdId = 0xFF#8 then c = 3#8 else
        if s.cmdId = 0xFE#8 then c = 4#8 else 14 < s.cmdCount.toNat ∧ c = 6#8) →
      exec .read s = .next (refusedState 0x20#8 c s)) ∧
    ((if s.cmdFlags &&& 0xFE#8 ≠ 0#8 then c = 2#8 else if s.cmdId = 0xFF#8 then c = 3#8 else
        if 13 < s.cmdCount.toNat then c = 6#8 else s.cmdCount = 0#8 ∧ c = 7#8) →
      exec .write s = .next (refusedState 0x21#8 c s)) ∧
    (s.cmdFlags ≠ 0#8 ∧ c = 2#8 → exec .trigger s = .next (refusedState 0x22#8 c s))

/-- The setters: the first failing check of R140 gives the code (R194), with the domains of R77. -/
def Obligations.SetterRefusals : Prop :=
  ∀ (s : State) (c : Byte), s.busy = false →
    ((if s.cmdFlags &&& 0xFC#8 ≠ 0#8 then c = 2#8 else if s.devId = 0xFF#8 then c = 3#8 else
        if s.cmdFlags.getLsbD 1 = true ∧ s.devId = 0xFE#8 then c = 4#8 else
        (s.val.toInt < 0 ∨ 23592960 < s.val.toInt) ∧ c = 7#8) →
      exec .setGoal s = .next (refusedState 0x30#8 c s)) ∧
    (∀ (i : Instr) (op : Byte) (lo hi : Int),
      (i, op, lo, hi) ∈ [(Instr.setCwLimit, 0x31#8, (0 : Int), (23592960 : Int)), (.setCcwLimit, 0x32#8, 0, 23592960),
        (.setCrSpeed, 0x33#8, -65536, 65536), (.setTorqueLimit, 0x34#8, 0, 65536), (.torqueEnable, 0x35#8, 0, 1),
        (.setMode, 0x36#8, 0, 1)] →
      (if s.cmdFlags ≠ 0#8 then c = 2#8 else if s.devId = 0xFF#8 then c = 3#8 else
        (s.val.toInt < lo ∨ hi < s.val.toInt) ∧ c = 7#8) →
      exec i s = .next (refusedState op c s)) ∧
    ((if s.cmdFlags ≠ 0#8 then c = 2#8 else if s.cmdId = 0xFF#8 then c = 3#8 else
        (s.val.toInt < 0 ∨ 253 < s.val.toInt) ∧ c = 7#8) →
      exec .setId s = .next (refusedState 0x37#8 c s))

/-- The getters: the first failing check of R140 gives the code (R194); `Unsupported` on the LR family (R172). -/
def Obligations.GetterRefusals : Prop :=
  ∀ (s : State) (c : Byte), s.busy = false →
    (∀ (i : Instr) (op : Byte),
      (i, op) ∈ [(Instr.getPosition, 0x40#8), (.getTemperature, 0x41#8), (.getVoltage, 0x42#8),
        (.isMoving, 0x44#8)] →
      (if s.cmdFlags ≠ 0#8 then c = 2#8 else if s.devId = 0xFF#8 then c = 3#8 else
        s.devId = 0xFE#8 ∧ c = 4#8) → exec i s = .next (refusedState op c s)) ∧
    ((if s.cmdFlags ≠ 0#8 then c = 2#8 else if s.devId = 0xFF#8 then c = 3#8 else
        if s.devId = 0xFE#8 then c = 4#8 else s.cfg.getLsbD 0 = false ∧ c = 5#8) →
      exec .getCurrent s = .next (refusedState 0x43#8 c s))

/-! ## The register port -/

/-- While an operation runs a host write to a register numbered 0 to 15 or 32 to 45 is ignored, except a write to
`CTRL` (R11): no second operation starts (R25). -/
def Obligations.RegistersLockedWhileBusy : Prop :=
  ∀ (s : State) (r : BitVec 7) (v : Word) (es : List Event), s.events = .hostWrite r v :: es → s.busy = true →
    ((r.toNat ≤ 15 ∧ r.toNat ≠ 6) ∨ (32 ≤ r.toNat ∧ r.toNat ≤ 45)) → step s = .next { s with events := es }

/-- A write to a read-only register or to a reserved register number is ignored, and a read of a reserved number
returns 0 (R11). -/
def Obligations.ReservedRegisters : Prop :=
  ∀ (s : State) (r : BitVec 7),
    (r.toNat ∈ [7, 14, 15, 46, 47, 62, 63] ∨ (23 ≤ r.toNat ∧ r.toNat ≤ 31) ∨ (84 ≤ r.toNat ∧ r.toNat ≤ 95) ∨
      116 ≤ r.toNat → readReg r s = 0#32) ∧
    (∀ (v : Word) (es : List Event), s.events = .hostWrite r v :: es →
      (r.toNat ∈ [7, 14, 15, 46, 47] ∨ (17 ≤ r.toNat ∧ r.toNat ≤ 31) ∨ 48 ≤ r.toNat) →
      step s = .next { s with events := es })

/-- A host write stores the value in the register it numbers and in no other (R12 to R17, R19 to R24): reserved bits of
`CFG` and `CMD_FLAGS` stay 0. `CTRL.ABORT` sets `abort_req` while an operation runs; with none running it has no effect;
its other bits do nothing (R18). The write-1-to-clear bits of `STATUS` can be written at any time (R11, R26). That the
port is 32 bits wide is the model's choice (log entry 32), as are the cut of a value wider than its register to the low
bits (log entry 9) and the store of 0 to `BAUDDIV` (log entry 10). -/
def Obligations.HostWrites : Prop :=
  ∀ (s : State) (v : Word) (es : List Event), s.rst = false →
    (s.busy = false →
      (s.events = .hostWrite 0#7 v :: es →
        step s = .next { s with events := es, cfg := v.setWidth 8 &&& 0x0F#8 }) ∧
      (s.events = .hostWrite 1#7 v :: es → step s = .next { s with events := es, bauddiv := v.setWidth 16 }) ∧
      (s.events = .hostWrite 2#7 v :: es → step s = .next { s with events := es, settle := v.setWidth 16 }) ∧
      (s.events = .hostWrite 3#7 v :: es → step s = .next { s with events := es, timeout := v }) ∧
      (s.events = .hostWrite 4#7 v :: es → step s = .next { s with events := es, pollLimit := v.setWidth 16 }) ∧
      (s.events = .hostWrite 5#7 v :: es → step s = .next { s with events := es, devId := v.setWidth 8 }) ∧
      (s.events = .hostWrite 8#7 v :: es → step s = .next { s with events := es, cmdId := v.setWidth 8 }) ∧
      (s.events = .hostWrite 9#7 v :: es → step s = .next { s with events := es, cmdAddr := v.setWidth 8 }) ∧
      (s.events = .hostWrite 10#7 v :: es → step s = .next { s with events := es, cmdCount := v.setWidth 8 }) ∧
      (s.events = .hostWrite 11#7 v :: es →
        step s = .next { s with events := es, cmdFlags := v.setWidth 8 &&& 0x03#8 }) ∧
      (s.events = .hostWrite 12#7 v :: es → step s = .next { s with events := es, val := v }) ∧
      (∀ i : Nat, i < 14 → s.events = .hostWrite (BitVec.ofNat 7 (32 + i)) v :: es →
        ∃ w : Vector Byte 14, step s = .next { s with events := es, wdata := w } ∧
          ∀ k : Nat, k < 14 → byteAt w k = if k = i then v.setWidth 8 else byteAt s.wdata k)) ∧
    (s.events = .hostWrite 6#7 v :: es →
      step s = .next { s with events := es, abortReq := s.abortReq || (v.getLsbD 0 && s.busy) }) ∧
    (s.events = .hostWrite 16#7 v :: es →
      step s = .next
        { s with
          events := es
          ovr := s.ovr && !v.getLsbD 4
          lbMismatch := s.lbMismatch && !v.getLsbD 5 })

/-- A host read shows the register it numbers and changes nothing but the read data at the port (R11; that data is the
model's field, log entry 21, 32 bits wide, log entry 32): upper bits 0, reserved bits 0, `CTRL` 0 (R18), `RXN` from `rxi` (R33), the fields of
`STATUS` (R26). The output ports follow the flags (R38, R86, R97, R200). -/
def Obligations.HostReadsAndPorts : Prop :=
  (∀ (s : State) (r : BitVec 7) (es : List Event), s.events = .hostRead r :: es →
    step s = .next { s with events := es, hostData := readReg r s }) ∧
  ∀ s : State,
    let status := readReg 16#7 s
    (readReg 0#7 s = (s.cfg &&& 0x0F#8).setWidth 32 ∧ readReg 1#7 s = s.bauddiv.setWidth 32 ∧
      readReg 2#7 s = s.settle.setWidth 32 ∧ readReg 3#7 s = s.timeout ∧
      readReg 4#7 s = s.pollLimit.setWidth 32 ∧ readReg 5#7 s = s.devId.setWidth 32 ∧ readReg 6#7 s = 0#32 ∧
      readReg 8#7 s = s.cmdId.setWidth 32 ∧ readReg 9#7 s = s.cmdAddr.setWidth 32 ∧
      readReg 10#7 s = s.cmdCount.setWidth 32 ∧ readReg 11#7 s = (s.cmdFlags &&& 0x03#8).setWidth 32 ∧
      readReg 12#7 s = s.val ∧ readReg 13#7 s = s.op.setWidth 32) ∧
    (readReg 17#7 s = (s.cc &&& 0x0F#8).setWidth 32 ∧ readReg 18#7 s = s.err.setWidth 32 ∧
      readReg 19#7 s = s.rid.setWidth 32 ∧ readReg 20#7 s = s.rcount.setWidth 32 ∧ readReg 21#7 s = s.result ∧
      readReg 22#7 s = BitVec.ofNat 32 s.rxi) ∧
    ((∀ i : Nat, i < 14 → readReg (BitVec.ofNat 7 (32 + i)) s = (byteAt s.wdata i).setWidth 32 ∧
        readReg (BitVec.ofNat 7 (48 + i)) s = (byteAt s.rdata i).setWidth 32) ∧
      (∀ i : Nat, i < 20 → readReg (BitVec.ofNat 7 (64 + i)) s = (byteAt s.rxbuf i).setWidth 32 ∧
        readReg (BitVec.ofNat 7 (96 + i)) s = (byteAt s.txbuf i).setWidth 32)) ∧
    (status.getLsbD 0 = s.busy ∧ status.getLsbD 1 = s.done ∧ status.getLsbD 2 = s.malformed ∧
      status.getLsbD 3 = s.faultSeen ∧ status.getLsbD 4 = s.ovr ∧ status.getLsbD 5 = s.lbMismatch ∧
      (status.getLsbD 6 = true ↔ s.dir = .output) ∧ (status.getLsbD 7 = true ↔ s.rxq ≠ []) ∧ status.toNat < 256) ∧
    ((rxIrq s = true ↔ s.cfg.getLsbD 3 = true ∧ s.rxq ≠ [] ∧ s.busy = false) ∧ busyPort s = s.busy ∧
      donePort s = s.done ∧ (sioOe s = true ↔ s.dir = .output))

/-! ## The link -/

/-- A byte of a frame with `CFG.LB = 0` (R87): it is driven, the receiver hears nothing of what is on the line
meanwhile, and the next byte follows. -/
def Obligations.TransmitWithoutLoopBack : Prop :=
  ∀ (s : State) (heard : List Byte) (es : List Event), s.events = .tx heard :: es → s.rst = false →
    s.pc = .txb → s.cfg.getLsbD 1 = false → s.txi + 1 < s.txn →
    step s = .next
      { s with
        events := es
        dir := .input
        txi := s.txi + 1
        bus := { s.bus with
          sent := s.bus.sent ++ [byteAt s.txbuf s.txi]
          wire := s.bus.wire ++ [byteAt s.txbuf s.txi] } }

/-- The last byte of a frame (R149 `AFTER_BYTE`, R147): `LINK_TX` completes; a broadcast transaction reports success
without inspecting a reply, takes nothing from `RXQ` and goes on at once, `SET_MODE` with its next packet; an addressed
transaction begins its settle interval. -/
def Obligations.LastByteOfFrame : Prop :=
  ∀ (s : State) (heard : List Byte) (es : List Event), s.events = .tx heard :: es → s.rst = false →
    s.pc = .txb → s.cfg.getLsbD 1 = false → s.txi + 1 = s.txn →
    let u : State :=
      { s with
        events := es
        dir := .input
        txi := s.txn
        bus := { s.bus with
          sent := s.bus.sent ++ [byteAt s.txbuf s.txi]
          wire := s.bus.wire ++ [byteAt s.txbuf s.txi] } }
    ∃ t : State, step s = .next t ∧ FrameSent u t

/-- A byte of a frame with `CFG.LB = 1` (R88): whatever the line shows the receiver meanwhile, the byte itself, nothing,
or other bytes in a collision (K20), enters `RXQ` as far as there is room, the rest is dropped with `OVR` set (R91, R92),
and the drain wait begins, for a `TRIGGER` and a broadcast write too (log entry 28). -/
def Obligations.TransmitWithLoopBack : Prop :=
  ∀ (s : State) (heard : List Byte) (es : List Event), s.events = .tx heard :: es → s.rst = false → s.pc = .txb →
    s.cfg.getLsbD 1 = true →
    let b := byteAt s.txbuf s.txi
    step s = .next
      { s with
        events := es
        dir := .input
        pc := .lbd
        waitCnt := 0#32
        rxq := s.rxq ++ heard.take (32 - s.rxq.length)
        ovr := s.ovr || decide (32 - s.rxq.length < heard.length)
        bus := { s.bus with sent := s.bus.sent ++ [b], wire := s.bus.wire ++ [b] } }

/-- The drain of a looped byte (R88): the oldest byte of `RXQ` is discarded, a difference sets `LB_MISMATCH` and no
more, and the next byte follows or, after the last one, what follows the frame. -/
def Obligations.LoopBackDrain : Prop :=
  ∀ (s : State) (es : List Event) (e : Byte) (q : List Byte), s.events = .drain :: es → s.rst = false →
    s.pc = .lbd → s.rxq = e :: q →
    let u : State :=
      { s with
        events := es
        rxq := q
        lbMismatch := s.lbMismatch || e != byteAt s.txbuf s.txi
        txi := s.txi + 1 }
    (s.txi + 1 < s.txn → step s = .next { u with pc := .txb }) ∧
    (s.txn ≤ s.txi + 1 → ∃ t : State, step s = .next t ∧ FrameSent u t)

/-- A byte that completes on the line (R91, R92, R149), brought by the environment or the next one the attached actuators
owe, which is then owed no more: captured while the receiver listens, dropped with `OVR` set when `RXQ` is full, not
captured while `DIR = OUT` with `CFG.LB = 0`. That owed bytes come in the order of the packets they answer is the model's
choice (log entry 33). -/
def Obligations.CaptureAndOverrun : Prop :=
  (∀ (s u : State) (b : Byte) (es : List Event), s.rst = false →
    (s.events = .line b :: es ∧ u = { s with events := es } ∨
      ∃ q, s.events = .reply :: es ∧ s.bus.reply = b :: q ∧
        u = { s with events := es, bus := { s.bus with reply := q } }) →
    (s.dir = .input ∨ s.cfg.getLsbD 1 = true → s.rxq.length < 32 →
      step s = .next { u with rxq := s.rxq ++ [b] }) ∧
    (s.dir = .input ∨ s.cfg.getLsbD 1 = true → 32 ≤ s.rxq.length → step s = .next { u with ovr := true }) ∧
    (s.dir = .output → s.cfg.getLsbD 1 = false → step s = .next u)) ∧
  (∀ (s : State) (es : List Event), s.events = .reply :: es → s.bus.reply = [] →
    step s = .next { s with events := es })

/-- `RX` of `LINK_RX` (R96): the oldest byte of `RXQ`, zero-extended, and nothing else of the results. -/
def Obligations.LinkRxReturnsByte : Prop :=
  ∀ (s : State) (es : List Event) (b : Byte) (q : List Byte), s.events = .rx :: es → s.rst = false →
    s.pc = .rxb → s.rxq = b :: q → s.op = 0x11#8 →
    step s = .next
      { endedState (if s.malformed then 0xB#8 else 0#8) s with
        events := es
        rxq := q
        result := b.setWidth 32 }

/-! ## The transaction skeleton -/

/-- The receive phase (R141, R149): it begins once the settle interval has expired, and every byte but the last is
stored and counted. -/
def Obligations.ReceivePhase : Prop :=
  (∀ (s : State) (es : List Event), s.events = .settled :: es → s.rst = false → s.pc = .settle →
    step s = .next { s with events := es, rxn := 6 + s.nexp, rxi := 0, pc := .rxb, waitCnt := 0#32 }) ∧
  (∀ (s : State) (es : List Event) (b : Byte) (q : List Byte), s.events = .rx :: es → s.rst = false →
    s.pc = .rxb → s.rxq = b :: q → s.op ≠ 0x11#8 → s.rxi + 1 ≠ s.rxn →
    step s = .next
      { s with
        events := es
        rxq := q
        rxbuf := s.rxbuf.setIfInBounds s.rxi b
        rxi := s.rxi + 1
        waitCnt := 0#32 })

/-- The waits (R98, R148, R149). A timeout, when there is one and nothing to receive, ends a wait with `BusTimeout` (the
counter then is the model's, log entry 6); an abort request ends it with `Aborted`, whatever is queued (R195). Both end
the drain wait of a `TRIGGER` or a broadcast `WRITE` too, against R144 and R145 (log entry 28), and `RXN` then is that of
an earlier reply (log entry 34). A step of the sequencer scheduled where R149 does not enable it changes nothing (log entry 2), so nothing else ends a wait with
nothing to receive: without a timeout and an abort the operation hangs (R89). `wait_cnt` counts ticks only while a wait
lasts and does not wrap (R205); that it stays at its largest value is the model's choice (log entry 6). -/
def Obligations.WaitsAndTicks : Prop :=
  ∀ (s : State) (e : Event) (es : List Event), s.events = e :: es → s.rst = false →
    (e = .timeout → s.rxq = [] → (s.pc = .lbd ∨ s.pc = .rxb) → s.timeout ≠ 0#32 →
      ∃ w : Word, s.timeout.toNat ≤ w.toNat ∧
        step s = .next { endedState 8#8 s with events := es, waitCnt := w }) ∧
    (e = .abort → s.abortReq = true → s.pc = .lbd ∨ s.pc = .settle ∨ s.pc = .rxb →
      step s = .next { endedState 9#8 s with events := es }) ∧
    (((∃ heard, e = .tx heard) ∧ s.pc ≠ .txb ∨ e = .drain ∧ (s.pc ≠ .lbd ∨ s.rxq = []) ∨
        e = .settled ∧ s.pc ≠ .settle ∨ e = .rx ∧ (s.pc ≠ .rxb ∨ s.rxq = []) ∨
        e = .timeout ∧ ((s.pc ≠ .lbd ∧ s.pc ≠ .rxb) ∨ s.timeout = 0#32 ∨ s.rxq ≠ []) ∨
        e = .abort ∧ (s.abortReq = false ∨ s.pc = .idle ∨ s.pc = .txb)) →
      step s = .next { s with events := es }) ∧
    (∀ n : Nat, e = .ticks n → ∃ w : Word, step s = .next { s with events := es, waitCnt := w } ∧
      w.toNat =
        if s.pc = .lbd ∨ s.pc = .settle ∨ s.pc = .rxb then min (s.waitCnt.toNat + n) 4294967295
        else s.waitCnt.toNat)

/-- A status packet that ends an operation of one transaction (R104, R106, R146): the registers are written by
position whatever the packet holds; a failed check shows only in `MALFORMED` and, at completion, as 0xB. -/
def Obligations.PlainOperationsComplete : Prop :=
  ∀ (s : State) (h0 h1 id len err : Byte) (params : List Byte) (chk : Byte),
    s.op ∈ [0x20#8, 0x21#8, 0x22#8, 0x31#8, 0x32#8, 0x33#8, 0x34#8, 0x35#8, 0x37#8] →
    let bad := s.cfg.getLsbD 2 &&
      (len.toNat != params.length + 2 || chk != 0xFF#8 - (id + len + err + byteSum params))
    exec (.spkt h0 h1 id len err params chk) s = .next
      (endedState (if s.malformed || bad then 0xB#8 else 0#8) (decodedState id err params bad s))

/-- A status packet that ends a getter (R169 to R174, R124 to R128): `RESULT` is the scaled payload whatever the error
byte, beside what the decoder writes. -/
def Obligations.GettersScaleTheReply : Prop :=
  ∀ (s : State) (h0 h1 id len err b0 b1 chk : Byte),
    let bad (params : List Byte) := s.cfg.getLsbD 2 &&
      (len.toNat != params.length + 2 || chk != 0xFF#8 - (id + len + err + byteSum params))
    let ends (params : List Byte) (v : Int) : State :=
      { endedState (if s.malformed || bad params then 0xB#8 else 0#8) (decodedState id err params (bad params) s) with
        result := BitVec.ofInt 32 v }
    let raw : Int := b0.toNat + 256 * b1.toNat
    (s.op = 0x40#8 → exec (.spkt h0 h1 id len err [b0, b1] chk) s = .next (ends [b0, b1] (raw * 75))) ∧
    (s.op = 0x41#8 → exec (.spkt h0 h1 id len err [b0] chk) s = .next (ends [b0] b0.toNat)) ∧
    (s.op = 0x42#8 → exec (.spkt h0 h1 id len err [b0] chk) s = .next (ends [b0] b0.toNat)) ∧
    (s.op = 0x43#8 → exec (.spkt h0 h1 id len err [b0, b1] chk) s = .next (ends [b0, b1] ((raw - 2303) * 45))) ∧
    (s.op = 0x44#8 →
      exec (.spkt h0 h1 id len err [b0] chk) s = .next (ends [b0] (if b0 = 0#8 then 0 else 1)))

/-- `SET_GOAL` after its write (R161): it completes, or, when blocking, keeps the write's error code and polls the
moving flag. -/
def Obligations.SetGoalAfterWrite : Prop :=
  ∀ (s : State) (h0 h1 id len err chk : Byte), s.op = 0x30#8 → s.sub = 0 →
    let bad := s.cfg.getLsbD 2 && (len.toNat != 2 || chk != 0xFF#8 - (id + len + err))
    (s.cmdFlags.getLsbD 1 = false → exec (.spkt h0 h1 id len err [] chk) s = .next
      (endedState (if s.malformed || bad then 0xB#8 else 0#8) (decodedState id err [] bad s))) ∧
    (s.cmdFlags.getLsbD 1 = true → exec (.spkt h0 h1 id len err [] chk) s = .next
      { nextFrameState s.devId (readFrame s.devId 0x2E#8 1#8) 1 (decodedState id err [] bad s) with
        werr := err
        sub := 1 })

/-- A poll of a blocking `SET_GOAL` (R161): it is counted; a moving flag of 0 ends the operation, before the limit is
looked at; the limit ends it with `PollExpired`; otherwise it polls again. At either end `ERR` is the write's code.
Past 16 bits the count is a free value, and the statement holds whatever it is (log entry 7). -/
def Obligations.SetGoalAfterPoll : Prop :=
  ∀ (s : State) (h0 h1 id len err m chk : Byte), s.op = 0x30#8 → s.cmdFlags.getLsbD 1 = true → s.sub ≠ 0 →
    let bad := s.cfg.getLsbD 2 && (len.toNat != 3 || chk != 0xFF#8 - (id + len + err + m))
    let u := decodedState id err [m] bad s
    ∃ (count : Half) (free : Nat), (s.pollcnt ≠ 0xFFFF#16 → count = s.pollcnt + 1#16 ∧ free = s.free) ∧
      (m = 0#8 → exec (.spkt h0 h1 id len err [m] chk) s = .next
        { endedState (if s.malformed || bad then 0xB#8 else 0#8) u with
          err := s.werr, pollcnt := count, free := free }) ∧
      (m ≠ 0#8 → s.pollLimit ≠ 0#16 → count = s.pollLimit → exec (.spkt h0 h1 id len err [m] chk) s = .next
        { endedState 0xA#8 u with err := s.werr, pollcnt := count, free := free }) ∧
      (m ≠ 0#8 → (s.pollLimit = 0#16 ∨ count ≠ s.pollLimit) → exec (.spkt h0 h1 id len err [m] chk) s = .next
        { nextFrameState s.devId (readFrame s.devId 0x2E#8 1#8) 1 u with pollcnt := count, free := free })

/-- `SET_MODE` after a write (R167): CCW limit, then moving speed, then done, whatever the replies say. -/
def Obligations.SetModeSequence : Prop :=
  ∀ (s : State) (h0 h1 id len err chk : Byte), s.op = 0x36#8 →
    let bad := s.cfg.getLsbD 2 && (len.toNat != 2 || chk != 0xFF#8 - (id + len + err))
    let u := decodedState id err [] bad s
    (s.sub = 0 → exec (.spkt h0 h1 id len err [] chk) s = .next
      { nextFrameState s.devId (wideFrame s.devId 0x03#8 0x08#8 (if s.val = 0#32 then 3413 else 0)) 0 u with
        sub := 1 }) ∧
    (s.sub = 1 → exec (.spkt h0 h1 id len err [] chk) s = .next
      { nextFrameState s.devId (wideFrame s.devId 0x03#8 0x20#8 0) 0 u with sub := 2 }) ∧
    (s.sub = 2 → exec (.spkt h0 h1 id len err [] chk) s = .next
      (endedState (if s.malformed || bad then 0xB#8 else 0#8) u))

/-! ## Scaling -/

/-- The encode functions on their domains (R118 to R120): the integer forms, their ranges, the ends of the scales; and
the goal-position asymmetry is kept (R129): reading back a position that was set to a non-zero raw value gives more than
the angle written, 150 degrees giving 127950/256. -/
def Obligations.EncodersOnTheirDomains : Prop :=
  (∀ v : Int, 0 ≤ v → v ≤ 23592960 →
    encAngle v = (8190 * v.toNat + 23592960) / 47185920 ∧ encAngle v ≤ 4095) ∧
  (∀ v w : Int, 0 ≤ v → v ≤ w → encAngle v ≤ encAngle w) ∧
  encAngle 0 = 0 ∧ encAngle 23592960 = 4095 ∧
  (∀ v : Int, -65536 ≤ v → v ≤ 65536 →
    encSpeed v ≤ 0x7FF ∧ (encSpeed v).testBit 10 = decide (v < 0) ∧
    encSpeed v % 1024 = (2046 * v.natAbs + 65536) / 131072) ∧
  (∀ v : Int, 0 ≤ v → v ≤ 65536 → encTorque v = (2046 * v.toNat + 65536) / 131072 ∧ encTorque v ≤ 1023) ∧
  (∀ v : Int, 0 ≤ v → v ≤ 23592960 → 1 ≤ encAngle v → v < 256 * decPosition (encAngle v)) ∧
  decPosition (encAngle 9830400) = 127950

/-- `join` undoes `split16` (R122, R123), and the ranges of the decoded results of the five getters (R78). -/
def Obligations.SplitJoinAndResultRanges : Prop :=
  (∀ raw : Nat, raw < 65536 → join (split16 raw).1 (split16 raw).2 2 = raw) ∧
  (∀ b0 b1 : Byte,
    0 ≤ decPosition (join b0 b1 2) ∧ decPosition (join b0 b1 2) ≤ 4915125 ∧
    -103635 ≤ decCurrent (join b0 b1 2) ∧ decCurrent (join b0 b1 2) ≤ 2845440 ∧
    (BitVec.ofInt 32 (decCurrent (join b0 b1 2))).toInt = decCurrent (join b0 b1 2) ∧
    0 ≤ decTemperature (join b0 b1 1) ∧ decTemperature (join b0 b1 1) ≤ 255 ∧
    0 ≤ decVoltage (join b0 b1 1) ∧ decVoltage (join b0 b1 1) ≤ 255 ∧
    (decMoving (join b0 b1 1) = 0 ∨ decMoving (join b0 b1 1) = 1))

/-! ## The actuators (environment) -/

/-- A read packet (R53): the one actuator addressed replies with the content of the registers from `addr` upward, for
every count whose length byte R65 can give; a byte nobody has told is free (log entry 12), and an actuator attached with
`flatRanges` also answers across a register boundary (log entry 15). For a greater count the reply is free bytes (log
entry 30). Nothing but the reply due and the counter of free values changes (log entry 27). -/
def Obligations.ReadPacketAnswered : Prop :=
  ∀ (s : State) (a : Actuator) (id addr count : Byte),
    s.bus.actuators.filter (fun a => a.id == id) = [a] → id ≠ 0xFE#8 → count ≠ 0#8 →
    addr.toNat + count.toNat ≤ 256 →
    (a.flatRanges = true ∨ crossesRegister a.hr addr.toNat count.toNat = false) →
    (count.toNat ≤ 253 → ∃ data : List Byte, data.length = count.toNat ∧
      (∀ (k : Nat) (b : Byte), k < count.toNat → loadByte a (addr.toNat + k) = some b → data[k]? = some b) ∧
      exec (.ipktRead id addr count) s = .next
        { s with
          bus := { s.bus with reply := s.bus.reply ++ packet id a.error data }
          free := s.free + count.toNat }) ∧
    (253 < count.toNat → ∃ reply : List Byte,
      exec (.ipktRead id addr count) s = .next
        { s with bus := { s.bus with reply := s.bus.reply ++ reply }, free := s.free + count.toNat })

/-- An immediate write packet (R54, R56): every actuator it reaches stores the bytes at ascending addresses and keeps
every other register; one it does not reach does nothing; the one addressed replies without parameters, under its old or
its new ID where the write changes it (K22); nobody replies to a broadcast; the core is untouched. A
staged write it holds stays (R49, R55), unless the two have a register in common: then it stays or is dropped (N10). The
model's choices: the ID of that reply is free (log entry 13), an actuator attached with `flatRanges` takes a range across
a register boundary (log entry 15), a staged write dropped is whole (log entry 16), every byte is stored, at every address
(log entry 25) and in one step (log entry 26), and a packet with its start register alone, outside R70, stores nothing and
is answered (log entry 30). -/
def Obligations.WritePacketStored : Prop :=
  ∀ (s : State) (id addr : Byte) (data : List Byte),
    (∀ a ∈ s.bus.actuators, reaches id a = true → addr.toNat + data.length ≤ 256 ∧
      (a.flatRanges = true ∨ crossesRegister a.hr addr.toNat data.length = false)) →
    ∃ (as : List Actuator) (reply : List Byte) (free : Nat),
      exec (.ipktWrite id addr data) s = .next
        { s with bus := { s.bus with actuators := as, reply := s.bus.reply ++ reply }, free := free } ∧
      (id = 0xFE#8 → reply = []) ∧
      (∀ a : Actuator, id ≠ 0xFE#8 → s.bus.actuators.filter (fun a => a.id == id) = [a] →
        ∃ rid : Byte, reply = packet rid a.error [] ∧
          (rid = id ∨ addr.toNat ≤ 3 ∧ data[3 - addr.toNat]? = some rid)) ∧
      as.length = s.bus.actuators.length ∧
      ∀ (k : Nat) (a b : Actuator), s.bus.actuators[k]? = some a → as[k]? = some b →
        (reaches id a = false → b = a) ∧
        (reaches id a = true → b.error = a.error ∧ b.hr = a.hr ∧ b.flatRanges = a.flatRanges ∧
          (b.staged = a.staged ∨ b.staged = none) ∧
          ((∀ p, a.staged = some p → ∀ x : Nat, addr.toNat ≤ x → x < addr.toNat + data.length →
            ¬(p.1.toNat ≤ x ∧ x < p.1.toNat + p.2.length)) → b.staged = a.staged) ∧
          ∀ x : Nat, loadByte b x =
            if addr.toNat ≤ x ∧ x < addr.toNat + data.length then data[x - addr.toNat]? else loadByte a x)

/-- A staged write packet (R55), one with its start register alone among them (outside R70; log entry 30): recorded, no
register of any actuator changes before the trigger (R49); the one addressed replies without parameters. A range across a register boundary is
taken by an actuator attached with `flatRanges` (log entry 15). -/
def Obligations.StagedWriteRecorded : Prop :=
  ∀ (s : State) (id addr : Byte) (data : List Byte),
    (∀ a ∈ s.bus.actuators, reaches id a = true → a.staged = none ∧ addr.toNat + data.length ≤ 256 ∧
      (a.flatRanges = true ∨ crossesRegister a.hr addr.toNat data.length = false)) →
    ∃ (reply : List Byte) (free : Nat),
      exec (.ipktRegWrite id addr data) s = .next
        { s with
          bus := { s.bus with
            actuators := s.bus.actuators.map fun a =>
              if reaches id a then { a with staged := some (addr, data) } else a
            reply := s.bus.reply ++ reply }
          free := free } ∧
      (id = 0xFE#8 → reply = []) ∧
      (∀ a : Actuator, id ≠ 0xFE#8 → s.bus.actuators.filter (fun a => a.id == id) = [a] →
        reply = packet id a.error [])

/-- The trigger packet (R55): every actuator that holds a staged write applies it and empties its buffer, one that
holds none is as before, nobody replies, and the core is untouched. That every staged byte is stored is the model's
choice (log entry 25), as is a range across a register boundary taken with `flatRanges` (log entry 15). -/
def Obligations.TriggerAppliesStagedWrites : Prop :=
  ∀ s : State,
    (∀ a ∈ s.bus.actuators, ∀ p, a.staged = some p → p.1.toNat + p.2.length ≤ 256 ∧
      (a.flatRanges = true ∨ crossesRegister a.hr p.1.toNat p.2.length = false)) →
    ∃ (as : List Actuator) (free : Nat),
      exec .ipktAction s = .next { s with bus := { s.bus with actuators := as }, free := free } ∧
      as.length = s.bus.actuators.length ∧
      ∀ (k : Nat) (a b : Actuator), s.bus.actuators[k]? = some a → as[k]? = some b →
        (a.staged = none → b = a) ∧
        (∀ p, a.staged = some p → b.staged = none ∧ b.error = a.error ∧ b.hr = a.hr ∧ b.flatRanges = a.flatRanges ∧
          ∀ x : Nat, loadByte b x =
            if p.1.toNat ≤ x ∧ x < p.1.toNat + p.2.length then p.2[x - p.1.toNat]? else loadByte a x)

/-- Instruction packets the source gives no meaning (R44, R55, R73, K19; log entries 15 and 16) stop by name where they
reach an attached actuator: a READ for no bytes, past address 255 or across a register boundary; a WRITE, and a staged
write to actuators that hold none, past 255 or across a boundary; a second staged write; a trigger that would apply a
staged write of such a range; a code the source does not define. The last does nothing where it reaches no attached
actuator (R52). -/
def Obligations.PacketsWithoutMeaningStop : Prop :=
  ∀ (s : State) (a : Actuator) (id addr code : Byte) (data : List Byte),
    (s.bus.actuators.filter (fun a => a.id == id) = [a] → id ≠ 0xFE#8 →
      exec (.ipktRead id addr 0#8) s = .refused .zeroLengthRead) ∧
    (∀ count : Byte, s.bus.actuators.filter (fun a => a.id == id) = [a] → id ≠ 0xFE#8 → count ≠ 0#8 →
      256 < addr.toNat + count.toNat → exec (.ipktRead id addr count) s = .fault .actuatorAddress) ∧
    (∀ count : Byte, s.bus.actuators.filter (fun a => a.id == id) = [a] → id ≠ 0xFE#8 →
      addr.toNat + count.toNat ≤ 256 → a.flatRanges = false → crossesRegister a.hr addr.toNat count.toNat = true →
      exec (.ipktRead id addr count) s = .refused .registerBoundary) ∧
    ((∃ b ∈ s.bus.actuators, reaches id b = true) → 256 < addr.toNat + data.length →
      exec (.ipktWrite id addr data) s = .fault .actuatorAddress ∧
      ((∀ b ∈ s.bus.actuators, reaches id b = true → b.staged = none) →
        exec (.ipktRegWrite id addr data) s = .fault .actuatorAddress)) ∧
    ((∃ b ∈ s.bus.actuators, reaches id b = true ∧ b.flatRanges = false ∧
        crossesRegister b.hr addr.toNat data.length = true) → addr.toNat + data.length ≤ 256 →
      exec (.ipktWrite id addr data) s = .refused .registerBoundary ∧
      ((∀ b ∈ s.bus.actuators, reaches id b = true → b.staged = none) →
        exec (.ipktRegWrite id addr data) s = .refused .registerBoundary)) ∧
    ((∃ b ∈ s.bus.actuators, reaches id b = true ∧ b.staged ≠ none) →
      (∀ b ∈ s.bus.actuators, reaches id b = true → addr.toNat + data.length ≤ 256 ∧
        (b.flatRanges = true ∨ crossesRegister b.hr addr.toNat data.length = false)) →
      exec (.ipktRegWrite id addr data) s = .refused .secondStagedWrite) ∧
    (∀ p, s.bus.actuators = [a] → a.staged = some p →
      (256 < p.1.toNat + p.2.length → exec .ipktAction s = .fault .actuatorAddress) ∧
      (p.1.toNat + p.2.length ≤ 256 → a.flatRanges = false → crossesRegister a.hr p.1.toNat p.2.length = true →
        exec .ipktAction s = .refused .registerBoundary)) ∧
    ((∃ b ∈ s.bus.actuators, reaches id b = true) →
      exec (.ipktReserved id code data) s = .refused .codeNotInSource) ∧
    ((∀ b ∈ s.bus.actuators, reaches id b = false) → exec (.ipktReserved id code data) s = .next s)

/-- Bytes on the line that are no instruction packet. Without the header they address nobody and pass by, how many at
once being free (log entry 31). A frame whose ID is nobody's attached does nothing (R52): it waits for its rest, passes by
with the bytes its `LEN` counts (R65) where its checksum is right, or passes by as bytes without a header do. One that
reaches an actuator stops by name (K19; log entry 16): cut short and not being sent any more, a parameterless 0x04, or no
packet of R61 to R71; so does one cut short before its ID, where any actuator is attached. While the core still sends the
frame there is nothing to act on. That bytes sent after a frame cut short count as its rest is the model's choice (log
entry 35). -/
def Obligations.BytesThatAreNoPacket : Prop :=
  ∀ (s : State) (es : List Event) (e : DecodeError), s.events = .actuators :: es → s.bus.wire ≠ [] →
    decode .lineOut s.bus.wire = .error e →
    let waits : Prop := step s = .next { s with events := es }
    let passes : Prop := ∃ k : Nat, step s = .next
      { s with events := es, bus := { s.bus with wire := s.bus.wire.drop (k + 1) }, free := s.free + 1 }
    (e = .badHeader → passes) ∧
    (e = .truncated → s.pc = .txb ∨ s.pc = .lbd → waits) ∧
    (e = .truncated → s.pc ≠ .txb → s.pc ≠ .lbd → s.bus.wire[2]? = none →
      (s.bus.actuators = [] → waits) ∧ (s.bus.actuators ≠ [] → step s = .refused .truncatedFrame)) ∧
    (∀ id : Byte, e ≠ .badHeader → s.bus.wire[2]? = some id →
      ((∀ b ∈ s.bus.actuators, reaches id b = false) →
        (e = .truncated → waits) ∧
        (e = .badLength ∨ e = .badChecksum → passes) ∧
        (e = .tooLong ∨ e = .badParams ∨ e = .triggerNotBroadcast → ∃ len : Byte, s.bus.wire[3]? = some len ∧
          step s = .next
            { s with events := es, bus := { s.bus with wire := s.bus.wire.drop (len.toNat + 4) } })) ∧
      ((∃ b ∈ s.bus.actuators, reaches id b = true) →
        (e = .truncated → s.pc ≠ .txb → s.pc ≠ .lbd → step s = .refused .truncatedFrame) ∧
        (e = .triggerNotBroadcast → step s = .refused .triggerNotBroadcast) ∧
        (e = .badLength ∨ e = .badChecksum ∨ e = .tooLong ∨ e = .badParams →
          step s = .refused .frameNotInSource)))

/-- What else the environment does leaves the core as it is. An actuator is attached with nothing known of its registers,
nothing staged and the error byte 0 (log entries 11, 25); one changes a register of its own accord (R46, R57), 0x03 being
its ID (R56); its error byte changes (R53); and the next byte owed is lost where it meets one the core drives (R87,
R229), which is never one owed to the packet being sent (log entry 36). -/
def Obligations.EnvironmentEvents : Prop :=
  ∀ (s : State) (es : List Event),
    (∀ (id : Byte) (hr flat : Bool), s.events = .attach id hr flat :: es → step s = .next
      { s with
        events := es
        bus := { s.bus with
          actuators := s.bus.actuators ++
            [{ id := id, regs := [], staged := none, error := 0#8, hr := hr, flatRanges := flat }] } }) ∧
    (∀ (k : Nat) (addr value : Byte), s.events = .actuatorSets k addr value :: es → ∃ as : List Actuator,
      step s = .next { s with events := es, bus := { s.bus with actuators := as } } ∧
      as.length = s.bus.actuators.length ∧
      ∀ (j : Nat) (a b : Actuator), s.bus.actuators[j]? = some a → as[j]? = some b →
        (j ≠ k → b = a) ∧
        (j = k → b.staged = a.staged ∧ b.error = a.error ∧ b.hr = a.hr ∧ b.flatRanges = a.flatRanges ∧
          ∀ x : Nat, loadByte b x = if x = addr.toNat then some value else loadByte a x)) ∧
    (∀ (k : Nat) (error : Byte), s.events = .actuatorFault k error :: es → ∃ as : List Actuator,
      step s = .next { s with events := es, bus := { s.bus with actuators := as } } ∧
      as.length = s.bus.actuators.length ∧
      ∀ (j : Nat) (a b : Actuator), s.bus.actuators[j]? = some a → as[j]? = some b →
        b = if j = k then { a with error := error } else a) ∧
    (s.events = .replyLost :: es → s.rst = false →
      (s.pc = .txb → step s = .next { s with events := es, bus := { s.bus with reply := s.bus.reply.tail } }) ∧
      (s.pc ≠ .txb → step s = .next { s with events := es }))

/-- Who replies (R52): nobody to a broadcast, nobody when no attached actuator has the ID. -/
def Obligations.OnlyAddressedActuatorsReply : Prop :=
  ∀ (s t : State) (id addr : Byte) (data : List Byte),
    (id = 0xFE#8 ∨ ∀ a ∈ s.bus.actuators, a.id ≠ id) →
    (∀ count : Byte, exec (.ipktRead id addr count) s = .next s) ∧
    (exec (.ipktWrite id addr data) s = .next t → t.bus.reply = s.bus.reply) ∧
    (exec (.ipktRegWrite id addr data) s = .next t → t.bus.reply = s.bus.reply)

/-! ## Whole-machine rules -/

/-- The core writes none of its configuration and command registers (R17, R23, R24): only a host write of the register
or reset changes one. -/
def Obligations.OnlyTheHostWritesOperands : Prop :=
  ∀ s t : State, step s = .next t →
    (∀ r v es, s.events = .hostWrite r v :: es → r = 13#7) →
    (∀ es, s.events ≠ .setRst true :: es) → SameOperands s t

/-- A queued byte leaves `RXQ` only at its head, one at a time (R37, R91): the core never discards another. -/
def Obligations.QueueLosesOnlyItsHead : Prop :=
  ∀ s t : State, step s = .next t → (∀ es, s.events ≠ .setRst true :: es) →
    ∃ (k : Nat) (added : List Byte), k ≤ 1 ∧ t.rxq = s.rxq.drop k ++ added

/-- A byte goes on the line only in the transmit step, one at a time, and it is the next byte of `TXBUF` (R86, R87). -/
def Obligations.LineCarriesOnlyTheFrame : Prop :=
  ∀ s t : State, step s = .next t →
    t.bus.sent = s.bus.sent ∨
      ((∃ heard es, s.events = .tx heard :: es) ∧ s.pc = .txb ∧
        t.bus.sent = s.bus.sent ++ [byteAt s.txbuf s.txi])

/-- `RESULT` is written only by the getters and `LINK_RX`, and only where they complete with `CC` 0 or 0xB (R32). -/
def Obligations.ResultWrittenOnlyByGetters : Prop :=
  ∀ s t : State, step s = .next t → (∀ es, s.events ≠ .setRst true :: es) → t.result ≠ s.result →
    s.op ∈ [0x11#8, 0x40#8, 0x41#8, 0x42#8, 0x43#8, 0x44#8] ∧ t.done = true ∧ t.busy = false ∧
      (t.cc = 0#8 ∨ t.cc = 0xB#8)

/-- Every way an operation ends is a completion (R146, R196): `DONE` set, the sequencer idle, the line listening, no
abort pending; only reset abandons one. -/
def Obligations.OperationsEndThroughCompletion : Prop :=
  ∀ s t : State, MachineInv s → step s = .next t → (∀ es, s.events ≠ .setRst true :: es) →
    s.busy = true → t.busy = false →
    t.done = true ∧ t.pc = .idle ∧ t.dir = .input ∧ t.abortReq = false ∧
      (t.cc.toNat = 0 ∨ 8 ≤ t.cc.toNat ∧ t.cc.toNat ≤ 0xB)

/-! ## Whole operations -/

/-- A whole `READ` (R141, R143): from an idle core with an empty queue, the frame goes out, the settle interval passes,
the `6 + n` bytes of any reply come in one by one, and the results are the reply's bytes by position. -/
def Obligations.WholeRead : Prop :=
  ∀ (s : State) (reply : List Byte), s.rst = false → s.busy = false → s.dir = .input → s.rxq = [] →
    s.cfg.getLsbD 1 = false → s.cmdFlags = 0#8 → s.cmdId.toNat ≤ 253 → s.cmdCount.toNat ≤ 14 →
    reply.length = 6 + s.cmdCount.toNat →
    ∃ t : State,
      playing (.hostWrite 13#7 0x20#32 :: (sendEvents 8 ++ .settled :: receiveEvents reply)) s = .next t ∧
      t.bus.sent = s.bus.sent ++ readFrame s.cmdId s.cmdAddr s.cmdCount ∧
      t.rid = reply.getD 2 0#8 ∧ t.err = reply.getD 4 0#8 ∧ t.rcount = s.cmdCount ∧
      (∀ k : Nat, k < s.cmdCount.toNat → byteAt t.rdata k = reply.getD (5 + k) 0#8) ∧
      (∀ k : Nat, s.cmdCount.toNat ≤ k → byteAt t.rdata k = byteAt s.rdata k) ∧
      t.rxi = 6 + s.cmdCount.toNat ∧ t.rxq = [] ∧ t.result = s.result ∧
      t.busy = false ∧ t.done = true ∧ t.pc = .idle ∧ t.dir = .input ∧
      (s.cfg.getLsbD 2 = false → t.cc = 0#8) ∧ SameOperands s t

/-- A whole `GET_CURRENT` on the HR family (R131, R172): from the opcode to the scaled result. -/
def Obligations.WholeGetCurrent : Prop :=
  ∀ (s : State) (reply : List Byte), s.rst = false → s.busy = false → s.dir = .input → s.rxq = [] →
    s.cfg.getLsbD 1 = false → s.cfg.getLsbD 0 = true → s.cmdFlags = 0#8 → s.devId.toNat ≤ 253 →
    reply.length = 8 →
    ∃ t : State,
      playing (.hostWrite 13#7 0x43#32 :: (sendEvents 8 ++ .settled :: receiveEvents reply)) s = .next t ∧
      t.bus.sent = s.bus.sent ++ readFrame s.devId 0x44#8 2#8 ∧
      t.result = BitVec.ofInt 32
        (((reply.getD 5 0#8).toNat + 256 * (reply.getD 6 0#8).toNat - 2303 : Int) * 45) ∧
      t.err = reply.getD 4 0#8 ∧ t.rid = reply.getD 2 0#8 ∧ t.rcount = 2#8 ∧ t.rxq = [] ∧
      t.busy = false ∧ t.done = true ∧ (s.cfg.getLsbD 2 = false → t.cc = 0#8) ∧ SameOperands s t

/-- A whole broadcast `WRITE` (R108, R147): it completes with its last byte, reads nothing from the queue and reports
success. -/
def Obligations.WholeBroadcastWrite : Prop :=
  ∀ s : State, s.rst = false → s.busy = false → s.cfg.getLsbD 1 = false →
    (s.cmdFlags = 0#8 ∨ s.cmdFlags = 1#8) → s.cmdId = 0xFE#8 → 1 ≤ s.cmdCount.toNat → s.cmdCount.toNat ≤ 13 →
    ∃ t : State,
      playing (.hostWrite 13#7 0x21#32 :: sendEvents (s.cmdCount.toNat + 7)) s = .next t ∧
      t.bus.sent.length = s.bus.sent.length + s.cmdCount.toNat + 7 ∧
      t.err = 0#8 ∧ t.rcount = 0#8 ∧ t.cc = 0#8 ∧ t.busy = false ∧ t.done = true ∧ t.pc = .idle ∧
      t.rxq = s.rxq ∧ t.rid = s.rid ∧ t.rxi = s.rxi ∧ t.rdata = s.rdata ∧ t.rxbuf = s.rxbuf ∧
      t.result = s.result ∧ SameOperands s t

/-- A whole loop-back `LINK_TX` on a line that echoes (R88, R95): every byte goes out and is drained, the queue is
empty again, `LB_MISMATCH` is unchanged. -/
def Obligations.WholeLoopBackTransmit : Prop :=
  ∀ s : State, s.rst = false → s.busy = false → s.rxq = [] → s.cfg.getLsbD 1 = true → s.cmdFlags = 0#8 →
    1 ≤ s.cmdCount.toNat → s.cmdCount.toNat ≤ 14 →
    let data := s.wdata.toList.take s.cmdCount.toNat
    ∃ t : State,
      playing (.hostWrite 13#7 0x10#32 :: data.flatMap fun b => [.tx [b], .drain]) s = .next t ∧
      t.bus.sent = s.bus.sent ++ data ∧ t.rxq = [] ∧ t.lbMismatch = s.lbMismatch ∧ t.cc = 0#8 ∧
      t.busy = false ∧ t.done = true ∧ SameResults s t ∧ SameOperands s t
end

