-- ==== Sys2Proof/Laws/Decode.lean ====
section
/-! SUPPORT. What a value of `OP` names, by cases, and the meaning of each as an acceptance. -/

namespace Sys2Proof.Machine

/-- A value of `OP` names one of the 18 operations of R75, or is reserved (R76). -/
theorem decodeOp_cases (op : Byte) :
    (op = 0x10#8 ∧ decodeOp op = .linkTx) ∨ (op = 0x11#8 ∧ decodeOp op = .linkRx) ∨
    (op = 0x20#8 ∧ decodeOp op = .read) ∨ (op = 0x21#8 ∧ decodeOp op = .write) ∨
    (op = 0x22#8 ∧ decodeOp op = .trigger) ∨ (op = 0x30#8 ∧ decodeOp op = .setGoal) ∨
    (op = 0x31#8 ∧ decodeOp op = .setCwLimit) ∨ (op = 0x32#8 ∧ decodeOp op = .setCcwLimit) ∨
    (op = 0x33#8 ∧ decodeOp op = .setCrSpeed) ∨ (op = 0x34#8 ∧ decodeOp op = .setTorqueLimit) ∨
    (op = 0x35#8 ∧ decodeOp op = .torqueEnable) ∨ (op = 0x36#8 ∧ decodeOp op = .setMode) ∨
    (op = 0x37#8 ∧ decodeOp op = .setId) ∨ (op = 0x40#8 ∧ decodeOp op = .getPosition) ∨
    (op = 0x41#8 ∧ decodeOp op = .getTemperature) ∨ (op = 0x42#8 ∧ decodeOp op = .getVoltage) ∨
    (op = 0x43#8 ∧ decodeOp op = .getCurrent) ∨ (op = 0x44#8 ∧ decodeOp op = .isMoving) ∨
    (isReservedOp op = true ∧ decodeOp op = .reservedOp op) := by
  revert op
  decide

/-- The operation that receives one raw byte (R96). -/
theorem decodeOp_eq_linkRx (op : Byte) : decodeOp op = .linkRx ↔ op = 0x11#8 := by
  revert op
  decide

/-- The operation that transmits raw bytes (R95). -/
theorem decodeOp_eq_linkTx (op : Byte) : decodeOp op = .linkTx ↔ op = 0x10#8 := by
  revert op
  decide

/-- Whatever `OP` names, its meaning is an acceptance of that very opcode (R140). -/
theorem exec_decodeOp (op : Byte) : ∃ (checks : State → List (Bool × Completion)) (run : State → State),
    ∀ s, exec (decodeOp op) s = accept op checks run s := by
  rcases decodeOp_cases op with
    ⟨rfl, h⟩ | ⟨rfl, h⟩ | ⟨rfl, h⟩ | ⟨rfl, h⟩ | ⟨rfl, h⟩ | ⟨rfl, h⟩ | ⟨rfl, h⟩ | ⟨rfl, h⟩ | ⟨rfl, h⟩ | ⟨rfl, h⟩ |
    ⟨rfl, h⟩ | ⟨rfl, h⟩ | ⟨rfl, h⟩ | ⟨rfl, h⟩ | ⟨rfl, h⟩ | ⟨rfl, h⟩ | ⟨rfl, h⟩ | ⟨rfl, h⟩ | ⟨-, h⟩ <;> rw [h]
  · exact ⟨_, _, execLinkTx.eq_1⟩
  · exact ⟨_, _, execLinkRx.eq_1⟩
  · exact ⟨_, _, execRead.eq_1⟩
  · exact ⟨_, _, execWrite.eq_1⟩
  · exact ⟨_, _, execTrigger.eq_1⟩
  · exact ⟨_, _, execSetGoal.eq_1⟩
  · exact ⟨_, _, execSetCwLimit.eq_1⟩
  · exact ⟨_, _, execSetCcwLimit.eq_1⟩
  · exact ⟨_, _, execSetCrSpeed.eq_1⟩
  · exact ⟨_, _, execSetTorqueLimit.eq_1⟩
  · exact ⟨_, _, execTorqueEnable.eq_1⟩
  · exact ⟨_, _, execSetMode.eq_1⟩
  · exact ⟨_, _, execSetId.eq_1⟩
  · exact ⟨_, _, execGetPosition.eq_1⟩
  · exact ⟨_, _, execGetTemperature.eq_1⟩
  · exact ⟨_, _, execGetVoltage.eq_1⟩
  · exact ⟨_, _, execGetCurrent.eq_1⟩
  · exact ⟨_, _, execIsMoving.eq_1⟩
  · exact ⟨_, _, execReservedOp.eq_1 op⟩

end Sys2Proof.Machine
end

