-- ==== Sys2Proof/Laws/State.lean ====
section
/-! SUPPORT. What each named update of the state does to each field: one lemma per field per update, true by `rfl`,
so that no later proof unfolds a record update. -/

namespace Sys2Proof.Machine

/-! ### `complete` -/

@[simp] theorem complete_cfg (c : Completion) (s : State) : (complete c s).cfg = s.cfg := rfl
@[simp] theorem complete_bauddiv (c : Completion) (s : State) : (complete c s).bauddiv = s.bauddiv := rfl
@[simp] theorem complete_settle (c : Completion) (s : State) : (complete c s).settle = s.settle := rfl
@[simp] theorem complete_timeout (c : Completion) (s : State) : (complete c s).timeout = s.timeout := rfl
@[simp] theorem complete_pollLimit (c : Completion) (s : State) : (complete c s).pollLimit = s.pollLimit := rfl
@[simp] theorem complete_devId (c : Completion) (s : State) : (complete c s).devId = s.devId := rfl
@[simp] theorem complete_cmdId (c : Completion) (s : State) : (complete c s).cmdId = s.cmdId := rfl
@[simp] theorem complete_cmdAddr (c : Completion) (s : State) : (complete c s).cmdAddr = s.cmdAddr := rfl
@[simp] theorem complete_cmdCount (c : Completion) (s : State) : (complete c s).cmdCount = s.cmdCount := rfl
@[simp] theorem complete_cmdFlags (c : Completion) (s : State) : (complete c s).cmdFlags = s.cmdFlags := rfl
@[simp] theorem complete_val (c : Completion) (s : State) : (complete c s).val = s.val := rfl
@[simp] theorem complete_wdata (c : Completion) (s : State) : (complete c s).wdata = s.wdata := rfl
@[simp] theorem complete_op (c : Completion) (s : State) : (complete c s).op = s.op := rfl
@[simp] theorem complete_busy (c : Completion) (s : State) : (complete c s).busy = false := rfl
@[simp] theorem complete_done (c : Completion) (s : State) : (complete c s).done = true := rfl
@[simp] theorem complete_malformed (c : Completion) (s : State) : (complete c s).malformed = s.malformed := rfl
@[simp] theorem complete_faultSeen (c : Completion) (s : State) : (complete c s).faultSeen = s.faultSeen := rfl
@[simp] theorem complete_ovr (c : Completion) (s : State) : (complete c s).ovr = s.ovr := rfl
@[simp] theorem complete_lbMismatch (c : Completion) (s : State) : (complete c s).lbMismatch = s.lbMismatch := rfl
@[simp] theorem complete_cc (c : Completion) (s : State) : (complete c s).cc = (finalCode c s.malformed).code := rfl
@[simp] theorem complete_err (c : Completion) (s : State) : (complete c s).err = s.err := rfl
@[simp] theorem complete_rid (c : Completion) (s : State) : (complete c s).rid = s.rid := rfl
@[simp] theorem complete_rcount (c : Completion) (s : State) : (complete c s).rcount = s.rcount := rfl
@[simp] theorem complete_result (c : Completion) (s : State) : (complete c s).result = s.result := rfl
@[simp] theorem complete_rdata (c : Completion) (s : State) : (complete c s).rdata = s.rdata := rfl
@[simp] theorem complete_rxbuf (c : Completion) (s : State) : (complete c s).rxbuf = s.rxbuf := rfl
@[simp] theorem complete_txbuf (c : Completion) (s : State) : (complete c s).txbuf = s.txbuf := rfl
@[simp] theorem complete_pc (c : Completion) (s : State) : (complete c s).pc = .idle := rfl
@[simp] theorem complete_sub (c : Completion) (s : State) : (complete c s).sub = s.sub := rfl
@[simp] theorem complete_tgt (c : Completion) (s : State) : (complete c s).tgt = s.tgt := rfl
@[simp] theorem complete_txn (c : Completion) (s : State) : (complete c s).txn = s.txn := rfl
@[simp] theorem complete_txi (c : Completion) (s : State) : (complete c s).txi = s.txi := rfl
@[simp] theorem complete_nexp (c : Completion) (s : State) : (complete c s).nexp = s.nexp := rfl
@[simp] theorem complete_rxn (c : Completion) (s : State) : (complete c s).rxn = s.rxn := rfl
@[simp] theorem complete_rxi (c : Completion) (s : State) : (complete c s).rxi = s.rxi := rfl
@[simp] theorem complete_pollcnt (c : Completion) (s : State) : (complete c s).pollcnt = s.pollcnt := rfl
@[simp] theorem complete_werr (c : Completion) (s : State) : (complete c s).werr = s.werr := rfl
@[simp] theorem complete_waitCnt (c : Completion) (s : State) : (complete c s).waitCnt = s.waitCnt := rfl
@[simp] theorem complete_abortReq (c : Completion) (s : State) : (complete c s).abortReq = false := rfl
@[simp] theorem complete_dir (c : Completion) (s : State) : (complete c s).dir = s.dir := rfl
@[simp] theorem complete_rxq (c : Completion) (s : State) : (complete c s).rxq = s.rxq := rfl
@[simp] theorem complete_rst (c : Completion) (s : State) : (complete c s).rst = s.rst := rfl
@[simp] theorem complete_hostData (c : Completion) (s : State) : (complete c s).hostData = s.hostData := rfl
@[simp] theorem complete_bus (c : Completion) (s : State) : (complete c s).bus = s.bus := rfl
@[simp] theorem complete_events (c : Completion) (s : State) : (complete c s).events = s.events := rfl
@[simp] theorem complete_free (c : Completion) (s : State) : (complete c s).free = s.free := rfl

/-! ### `beginOp` -/

@[simp] theorem beginOp_cfg (op : Byte) (s : State) : (beginOp op s).cfg = s.cfg := rfl
@[simp] theorem beginOp_bauddiv (op : Byte) (s : State) : (beginOp op s).bauddiv = s.bauddiv := rfl
@[simp] theorem beginOp_settle (op : Byte) (s : State) : (beginOp op s).settle = s.settle := rfl
@[simp] theorem beginOp_timeout (op : Byte) (s : State) : (beginOp op s).timeout = s.timeout := rfl
@[simp] theorem beginOp_pollLimit (op : Byte) (s : State) : (beginOp op s).pollLimit = s.pollLimit := rfl
@[simp] theorem beginOp_devId (op : Byte) (s : State) : (beginOp op s).devId = s.devId := rfl
@[simp] theorem beginOp_cmdId (op : Byte) (s : State) : (beginOp op s).cmdId = s.cmdId := rfl
@[simp] theorem beginOp_cmdAddr (op : Byte) (s : State) : (beginOp op s).cmdAddr = s.cmdAddr := rfl
@[simp] theorem beginOp_cmdCount (op : Byte) (s : State) : (beginOp op s).cmdCount = s.cmdCount := rfl
@[simp] theorem beginOp_cmdFlags (op : Byte) (s : State) : (beginOp op s).cmdFlags = s.cmdFlags := rfl
@[simp] theorem beginOp_val (op : Byte) (s : State) : (beginOp op s).val = s.val := rfl
@[simp] theorem beginOp_wdata (op : Byte) (s : State) : (beginOp op s).wdata = s.wdata := rfl
@[simp] theorem beginOp_op (op : Byte) (s : State) : (beginOp op s).op = op := rfl
@[simp] theorem beginOp_busy (op : Byte) (s : State) : (beginOp op s).busy = true := rfl
@[simp] theorem beginOp_done (op : Byte) (s : State) : (beginOp op s).done = false := rfl
@[simp] theorem beginOp_malformed (op : Byte) (s : State) : (beginOp op s).malformed = false := rfl
@[simp] theorem beginOp_faultSeen (op : Byte) (s : State) : (beginOp op s).faultSeen = false := rfl
@[simp] theorem beginOp_ovr (op : Byte) (s : State) : (beginOp op s).ovr = s.ovr := rfl
@[simp] theorem beginOp_lbMismatch (op : Byte) (s : State) : (beginOp op s).lbMismatch = s.lbMismatch := rfl
@[simp] theorem beginOp_cc (op : Byte) (s : State) : (beginOp op s).cc = 0#8 := rfl
@[simp] theorem beginOp_err (op : Byte) (s : State) : (beginOp op s).err = s.err := rfl
@[simp] theorem beginOp_rid (op : Byte) (s : State) : (beginOp op s).rid = s.rid := rfl
@[simp] theorem beginOp_rcount (op : Byte) (s : State) : (beginOp op s).rcount = s.rcount := rfl
@[simp] theorem beginOp_result (op : Byte) (s : State) : (beginOp op s).result = s.result := rfl
@[simp] theorem beginOp_rdata (op : Byte) (s : State) : (beginOp op s).rdata = s.rdata := rfl
@[simp] theorem beginOp_rxbuf (op : Byte) (s : State) : (beginOp op s).rxbuf = s.rxbuf := rfl
@[simp] theorem beginOp_txbuf (op : Byte) (s : State) : (beginOp op s).txbuf = s.txbuf := rfl
@[simp] theorem beginOp_pc (op : Byte) (s : State) : (beginOp op s).pc = s.pc := rfl
@[simp] theorem beginOp_sub (op : Byte) (s : State) : (beginOp op s).sub = 0 := rfl
@[simp] theorem beginOp_tgt (op : Byte) (s : State) : (beginOp op s).tgt = s.tgt := rfl
@[simp] theorem beginOp_txn (op : Byte) (s : State) : (beginOp op s).txn = s.txn := rfl
@[simp] theorem beginOp_txi (op : Byte) (s : State) : (beginOp op s).txi = s.txi := rfl
@[simp] theorem beginOp_nexp (op : Byte) (s : State) : (beginOp op s).nexp = s.nexp := rfl
@[simp] theorem beginOp_rxn (op : Byte) (s : State) : (beginOp op s).rxn = s.rxn := rfl
@[simp] theorem beginOp_rxi (op : Byte) (s : State) : (beginOp op s).rxi = s.rxi := rfl
@[simp] theorem beginOp_pollcnt (op : Byte) (s : State) : (beginOp op s).pollcnt = 0#16 := rfl
@[simp] theorem beginOp_werr (op : Byte) (s : State) : (beginOp op s).werr = 0#8 := rfl
@[simp] theorem beginOp_waitCnt (op : Byte) (s : State) : (beginOp op s).waitCnt = s.waitCnt := rfl
@[simp] theorem beginOp_abortReq (op : Byte) (s : State) : (beginOp op s).abortReq = false := rfl
@[simp] theorem beginOp_dir (op : Byte) (s : State) : (beginOp op s).dir = s.dir := rfl
@[simp] theorem beginOp_rxq (op : Byte) (s : State) : (beginOp op s).rxq = s.rxq := rfl
@[simp] theorem beginOp_rst (op : Byte) (s : State) : (beginOp op s).rst = s.rst := rfl
@[simp] theorem beginOp_hostData (op : Byte) (s : State) : (beginOp op s).hostData = s.hostData := rfl
@[simp] theorem beginOp_bus (op : Byte) (s : State) : (beginOp op s).bus = s.bus := rfl
@[simp] theorem beginOp_events (op : Byte) (s : State) : (beginOp op s).events = s.events := rfl
@[simp] theorem beginOp_free (op : Byte) (s : State) : (beginOp op s).free = s.free := rfl

/-! ### `capture` -/

@[simp] theorem capture_cfg (b : Byte) (s : State) : (capture b s).cfg = s.cfg := rfl
@[simp] theorem capture_bauddiv (b : Byte) (s : State) : (capture b s).bauddiv = s.bauddiv := rfl
@[simp] theorem capture_settle (b : Byte) (s : State) : (capture b s).settle = s.settle := rfl
@[simp] theorem capture_timeout (b : Byte) (s : State) : (capture b s).timeout = s.timeout := rfl
@[simp] theorem capture_pollLimit (b : Byte) (s : State) : (capture b s).pollLimit = s.pollLimit := rfl
@[simp] theorem capture_devId (b : Byte) (s : State) : (capture b s).devId = s.devId := rfl
@[simp] theorem capture_cmdId (b : Byte) (s : State) : (capture b s).cmdId = s.cmdId := rfl
@[simp] theorem capture_cmdAddr (b : Byte) (s : State) : (capture b s).cmdAddr = s.cmdAddr := rfl
@[simp] theorem capture_cmdCount (b : Byte) (s : State) : (capture b s).cmdCount = s.cmdCount := rfl
@[simp] theorem capture_cmdFlags (b : Byte) (s : State) : (capture b s).cmdFlags = s.cmdFlags := rfl
@[simp] theorem capture_val (b : Byte) (s : State) : (capture b s).val = s.val := rfl
@[simp] theorem capture_wdata (b : Byte) (s : State) : (capture b s).wdata = s.wdata := rfl
@[simp] theorem capture_op (b : Byte) (s : State) : (capture b s).op = s.op := rfl
@[simp] theorem capture_busy (b : Byte) (s : State) : (capture b s).busy = s.busy := rfl
@[simp] theorem capture_done (b : Byte) (s : State) : (capture b s).done = s.done := rfl
@[simp] theorem capture_malformed (b : Byte) (s : State) : (capture b s).malformed = s.malformed := rfl
@[simp] theorem capture_faultSeen (b : Byte) (s : State) : (capture b s).faultSeen = s.faultSeen := rfl
@[simp] theorem capture_ovr (b : Byte) (s : State) :
    (capture b s).ovr = (s.ovr || (listening s && decide (Config.rxqDepth ≤ s.rxq.length))) := rfl
@[simp] theorem capture_lbMismatch (b : Byte) (s : State) : (capture b s).lbMismatch = s.lbMismatch := rfl
@[simp] theorem capture_cc (b : Byte) (s : State) : (capture b s).cc = s.cc := rfl
@[simp] theorem capture_err (b : Byte) (s : State) : (capture b s).err = s.err := rfl
@[simp] theorem capture_rid (b : Byte) (s : State) : (capture b s).rid = s.rid := rfl
@[simp] theorem capture_rcount (b : Byte) (s : State) : (capture b s).rcount = s.rcount := rfl
@[simp] theorem capture_result (b : Byte) (s : State) : (capture b s).result = s.result := rfl
@[simp] theorem capture_rdata (b : Byte) (s : State) : (capture b s).rdata = s.rdata := rfl
@[simp] theorem capture_rxbuf (b : Byte) (s : State) : (capture b s).rxbuf = s.rxbuf := rfl
@[simp] theorem capture_txbuf (b : Byte) (s : State) : (capture b s).txbuf = s.txbuf := rfl
@[simp] theorem capture_pc (b : Byte) (s : State) : (capture b s).pc = s.pc := rfl
@[simp] theorem capture_sub (b : Byte) (s : State) : (capture b s).sub = s.sub := rfl
@[simp] theorem capture_tgt (b : Byte) (s : State) : (capture b s).tgt = s.tgt := rfl
@[simp] theorem capture_txn (b : Byte) (s : State) : (capture b s).txn = s.txn := rfl
@[simp] theorem capture_txi (b : Byte) (s : State) : (capture b s).txi = s.txi := rfl
@[simp] theorem capture_nexp (b : Byte) (s : State) : (capture b s).nexp = s.nexp := rfl
@[simp] theorem capture_rxn (b : Byte) (s : State) : (capture b s).rxn = s.rxn := rfl
@[simp] theorem capture_rxi (b : Byte) (s : State) : (capture b s).rxi = s.rxi := rfl
@[simp] theorem capture_pollcnt (b : Byte) (s : State) : (capture b s).pollcnt = s.pollcnt := rfl
@[simp] theorem capture_werr (b : Byte) (s : State) : (capture b s).werr = s.werr := rfl
@[simp] theorem capture_waitCnt (b : Byte) (s : State) : (capture b s).waitCnt = s.waitCnt := rfl
@[simp] theorem capture_abortReq (b : Byte) (s : State) : (capture b s).abortReq = s.abortReq := rfl
@[simp] theorem capture_dir (b : Byte) (s : State) : (capture b s).dir = s.dir := rfl
@[simp] theorem capture_rxq (b : Byte) (s : State) :
    (capture b s).rxq = if listening s && decide (s.rxq.length < Config.rxqDepth) then s.rxq ++ [b] else s.rxq := rfl
@[simp] theorem capture_rst (b : Byte) (s : State) : (capture b s).rst = s.rst := rfl
@[simp] theorem capture_hostData (b : Byte) (s : State) : (capture b s).hostData = s.hostData := rfl
@[simp] theorem capture_bus (b : Byte) (s : State) : (capture b s).bus = s.bus := rfl
@[simp] theorem capture_events (b : Byte) (s : State) : (capture b s).events = s.events := rfl
@[simp] theorem capture_free (b : Byte) (s : State) : (capture b s).free = s.free := rfl

/-! ### `drive` -/

@[simp] theorem drive_cfg (b : Byte) (s : State) : (drive b s).cfg = s.cfg := rfl
@[simp] theorem drive_bauddiv (b : Byte) (s : State) : (drive b s).bauddiv = s.bauddiv := rfl
@[simp] theorem drive_settle (b : Byte) (s : State) : (drive b s).settle = s.settle := rfl
@[simp] theorem drive_timeout (b : Byte) (s : State) : (drive b s).timeout = s.timeout := rfl
@[simp] theorem drive_pollLimit (b : Byte) (s : State) : (drive b s).pollLimit = s.pollLimit := rfl
@[simp] theorem drive_devId (b : Byte) (s : State) : (drive b s).devId = s.devId := rfl
@[simp] theorem drive_cmdId (b : Byte) (s : State) : (drive b s).cmdId = s.cmdId := rfl
@[simp] theorem drive_cmdAddr (b : Byte) (s : State) : (drive b s).cmdAddr = s.cmdAddr := rfl
@[simp] theorem drive_cmdCount (b : Byte) (s : State) : (drive b s).cmdCount = s.cmdCount := rfl
@[simp] theorem drive_cmdFlags (b : Byte) (s : State) : (drive b s).cmdFlags = s.cmdFlags := rfl
@[simp] theorem drive_val (b : Byte) (s : State) : (drive b s).val = s.val := rfl
@[simp] theorem drive_wdata (b : Byte) (s : State) : (drive b s).wdata = s.wdata := rfl
@[simp] theorem drive_op (b : Byte) (s : State) : (drive b s).op = s.op := rfl
@[simp] theorem drive_busy (b : Byte) (s : State) : (drive b s).busy = s.busy := rfl
@[simp] theorem drive_done (b : Byte) (s : State) : (drive b s).done = s.done := rfl
@[simp] theorem drive_malformed (b : Byte) (s : State) : (drive b s).malformed = s.malformed := rfl
@[simp] theorem drive_faultSeen (b : Byte) (s : State) : (drive b s).faultSeen = s.faultSeen := rfl
@[simp] theorem drive_ovr (b : Byte) (s : State) : (drive b s).ovr = s.ovr := rfl
@[simp] theorem drive_lbMismatch (b : Byte) (s : State) : (drive b s).lbMismatch = s.lbMismatch := rfl
@[simp] theorem drive_cc (b : Byte) (s : State) : (drive b s).cc = s.cc := rfl
@[simp] theorem drive_err (b : Byte) (s : State) : (drive b s).err = s.err := rfl
@[simp] theorem drive_rid (b : Byte) (s : State) : (drive b s).rid = s.rid := rfl
@[simp] theorem drive_rcount (b : Byte) (s : State) : (drive b s).rcount = s.rcount := rfl
@[simp] theorem drive_result (b : Byte) (s : State) : (drive b s).result = s.result := rfl
@[simp] theorem drive_rdata (b : Byte) (s : State) : (drive b s).rdata = s.rdata := rfl
@[simp] theorem drive_rxbuf (b : Byte) (s : State) : (drive b s).rxbuf = s.rxbuf := rfl
@[simp] theorem drive_txbuf (b : Byte) (s : State) : (drive b s).txbuf = s.txbuf := rfl
@[simp] theorem drive_pc (b : Byte) (s : State) : (drive b s).pc = s.pc := rfl
@[simp] theorem drive_sub (b : Byte) (s : State) : (drive b s).sub = s.sub := rfl
@[simp] theorem drive_tgt (b : Byte) (s : State) : (drive b s).tgt = s.tgt := rfl
@[simp] theorem drive_txn (b : Byte) (s : State) : (drive b s).txn = s.txn := rfl
@[simp] theorem drive_txi (b : Byte) (s : State) : (drive b s).txi = s.txi := rfl
@[simp] theorem drive_nexp (b : Byte) (s : State) : (drive b s).nexp = s.nexp := rfl
@[simp] theorem drive_rxn (b : Byte) (s : State) : (drive b s).rxn = s.rxn := rfl
@[simp] theorem drive_rxi (b : Byte) (s : State) : (drive b s).rxi = s.rxi := rfl
@[simp] theorem drive_pollcnt (b : Byte) (s : State) : (drive b s).pollcnt = s.pollcnt := rfl
@[simp] theorem drive_werr (b : Byte) (s : State) : (drive b s).werr = s.werr := rfl
@[simp] theorem drive_waitCnt (b : Byte) (s : State) : (drive b s).waitCnt = s.waitCnt := rfl
@[simp] theorem drive_abortReq (b : Byte) (s : State) : (drive b s).abortReq = s.abortReq := rfl
@[simp] theorem drive_dir (b : Byte) (s : State) : (drive b s).dir = s.dir := rfl
@[simp] theorem drive_rxq (b : Byte) (s : State) : (drive b s).rxq = s.rxq := rfl
@[simp] theorem drive_rst (b : Byte) (s : State) : (drive b s).rst = s.rst := rfl
@[simp] theorem drive_hostData (b : Byte) (s : State) : (drive b s).hostData = s.hostData := rfl
@[simp] theorem drive_bus (b : Byte) (s : State) :
    (drive b s).bus = { s.bus with sent := s.bus.sent ++ [b], wire := s.bus.wire ++ [b] } := rfl
@[simp] theorem drive_events (b : Byte) (s : State) : (drive b s).events = s.events := rfl
@[simp] theorem drive_free (b : Byte) (s : State) : (drive b s).free = s.free := rfl

/-! ### `setDir` -/

@[simp] theorem setDir_cfg (d : LineDir) (s : State) : (setDir d s).cfg = s.cfg := rfl
@[simp] theorem setDir_bauddiv (d : LineDir) (s : State) : (setDir d s).bauddiv = s.bauddiv := rfl
@[simp] theorem setDir_settle (d : LineDir) (s : State) : (setDir d s).settle = s.settle := rfl
@[simp] theorem setDir_timeout (d : LineDir) (s : State) : (setDir d s).timeout = s.timeout := rfl
@[simp] theorem setDir_pollLimit (d : LineDir) (s : State) : (setDir d s).pollLimit = s.pollLimit := rfl
@[simp] theorem setDir_devId (d : LineDir) (s : State) : (setDir d s).devId = s.devId := rfl
@[simp] theorem setDir_cmdId (d : LineDir) (s : State) : (setDir d s).cmdId = s.cmdId := rfl
@[simp] theorem setDir_cmdAddr (d : LineDir) (s : State) : (setDir d s).cmdAddr = s.cmdAddr := rfl
@[simp] theorem setDir_cmdCount (d : LineDir) (s : State) : (setDir d s).cmdCount = s.cmdCount := rfl
@[simp] theorem setDir_cmdFlags (d : LineDir) (s : State) : (setDir d s).cmdFlags = s.cmdFlags := rfl
@[simp] theorem setDir_val (d : LineDir) (s : State) : (setDir d s).val = s.val := rfl
@[simp] theorem setDir_wdata (d : LineDir) (s : State) : (setDir d s).wdata = s.wdata := rfl
@[simp] theorem setDir_op (d : LineDir) (s : State) : (setDir d s).op = s.op := rfl
@[simp] theorem setDir_busy (d : LineDir) (s : State) : (setDir d s).busy = s.busy := rfl
@[simp] theorem setDir_done (d : LineDir) (s : State) : (setDir d s).done = s.done := rfl
@[simp] theorem setDir_malformed (d : LineDir) (s : State) : (setDir d s).malformed = s.malformed := rfl
@[simp] theorem setDir_faultSeen (d : LineDir) (s : State) : (setDir d s).faultSeen = s.faultSeen := rfl
@[simp] theorem setDir_ovr (d : LineDir) (s : State) : (setDir d s).ovr = s.ovr := rfl
@[simp] theorem setDir_lbMismatch (d : LineDir) (s : State) : (setDir d s).lbMismatch = s.lbMismatch := rfl
@[simp] theorem setDir_cc (d : LineDir) (s : State) : (setDir d s).cc = s.cc := rfl
@[simp] theorem setDir_err (d : LineDir) (s : State) : (setDir d s).err = s.err := rfl
@[simp] theorem setDir_rid (d : LineDir) (s : State) : (setDir d s).rid = s.rid := rfl
@[simp] theorem setDir_rcount (d : LineDir) (s : State) : (setDir d s).rcount = s.rcount := rfl
@[simp] theorem setDir_result (d : LineDir) (s : State) : (setDir d s).result = s.result := rfl
@[simp] theorem setDir_rdata (d : LineDir) (s : State) : (setDir d s).rdata = s.rdata := rfl
@[simp] theorem setDir_rxbuf (d : LineDir) (s : State) : (setDir d s).rxbuf = s.rxbuf := rfl
@[simp] theorem setDir_txbuf (d : LineDir) (s : State) : (setDir d s).txbuf = s.txbuf := rfl
@[simp] theorem setDir_pc (d : LineDir) (s : State) : (setDir d s).pc = s.pc := rfl
@[simp] theorem setDir_sub (d : LineDir) (s : State) : (setDir d s).sub = s.sub := rfl
@[simp] theorem setDir_tgt (d : LineDir) (s : State) : (setDir d s).tgt = s.tgt := rfl
@[simp] theorem setDir_txn (d : LineDir) (s : State) : (setDir d s).txn = s.txn := rfl
@[simp] theorem setDir_txi (d : LineDir) (s : State) : (setDir d s).txi = s.txi := rfl
@[simp] theorem setDir_nexp (d : LineDir) (s : State) : (setDir d s).nexp = s.nexp := rfl
@[simp] theorem setDir_rxn (d : LineDir) (s : State) : (setDir d s).rxn = s.rxn := rfl
@[simp] theorem setDir_rxi (d : LineDir) (s : State) : (setDir d s).rxi = s.rxi := rfl
@[simp] theorem setDir_pollcnt (d : LineDir) (s : State) : (setDir d s).pollcnt = s.pollcnt := rfl
@[simp] theorem setDir_werr (d : LineDir) (s : State) : (setDir d s).werr = s.werr := rfl
@[simp] theorem setDir_waitCnt (d : LineDir) (s : State) : (setDir d s).waitCnt = s.waitCnt := rfl
@[simp] theorem setDir_abortReq (d : LineDir) (s : State) : (setDir d s).abortReq = s.abortReq := rfl
@[simp] theorem setDir_dir (d : LineDir) (s : State) : (setDir d s).dir = d := rfl
@[simp] theorem setDir_rxq (d : LineDir) (s : State) : (setDir d s).rxq = s.rxq := rfl
@[simp] theorem setDir_rst (d : LineDir) (s : State) : (setDir d s).rst = s.rst := rfl
@[simp] theorem setDir_hostData (d : LineDir) (s : State) : (setDir d s).hostData = s.hostData := rfl
@[simp] theorem setDir_bus (d : LineDir) (s : State) : (setDir d s).bus = s.bus := rfl
@[simp] theorem setDir_events (d : LineDir) (s : State) : (setDir d s).events = s.events := rfl
@[simp] theorem setDir_free (d : LineDir) (s : State) : (setDir d s).free = s.free := rfl

/-! ### `popRxq` -/

@[simp] theorem popRxq_cfg (s : State) : (popRxq s).cfg = s.cfg := rfl
@[simp] theorem popRxq_bauddiv (s : State) : (popRxq s).bauddiv = s.bauddiv := rfl
@[simp] theorem popRxq_settle (s : State) : (popRxq s).settle = s.settle := rfl
@[simp] theorem popRxq_timeout (s : State) : (popRxq s).timeout = s.timeout := rfl
@[simp] theorem popRxq_pollLimit (s : State) : (popRxq s).pollLimit = s.pollLimit := rfl
@[simp] theorem popRxq_devId (s : State) : (popRxq s).devId = s.devId := rfl
@[simp] theorem popRxq_cmdId (s : State) : (popRxq s).cmdId = s.cmdId := rfl
@[simp] theorem popRxq_cmdAddr (s : State) : (popRxq s).cmdAddr = s.cmdAddr := rfl
@[simp] theorem popRxq_cmdCount (s : State) : (popRxq s).cmdCount = s.cmdCount := rfl
@[simp] theorem popRxq_cmdFlags (s : State) : (popRxq s).cmdFlags = s.cmdFlags := rfl
@[simp] theorem popRxq_val (s : State) : (popRxq s).val = s.val := rfl
@[simp] theorem popRxq_wdata (s : State) : (popRxq s).wdata = s.wdata := rfl
@[simp] theorem popRxq_op (s : State) : (popRxq s).op = s.op := rfl
@[simp] theorem popRxq_busy (s : State) : (popRxq s).busy = s.busy := rfl
@[simp] theorem popRxq_done (s : State) : (popRxq s).done = s.done := rfl
@[simp] theorem popRxq_malformed (s : State) : (popRxq s).malformed = s.malformed := rfl
@[simp] theorem popRxq_faultSeen (s : State) : (popRxq s).faultSeen = s.faultSeen := rfl
@[simp] theorem popRxq_ovr (s : State) : (popRxq s).ovr = s.ovr := rfl
@[simp] theorem popRxq_lbMismatch (s : State) : (popRxq s).lbMismatch = s.lbMismatch := rfl
@[simp] theorem popRxq_cc (s : State) : (popRxq s).cc = s.cc := rfl
@[simp] theorem popRxq_err (s : State) : (popRxq s).err = s.err := rfl
@[simp] theorem popRxq_rid (s : State) : (popRxq s).rid = s.rid := rfl
@[simp] theorem popRxq_rcount (s : State) : (popRxq s).rcount = s.rcount := rfl
@[simp] theorem popRxq_result (s : State) : (popRxq s).result = s.result := rfl
@[simp] theorem popRxq_rdata (s : State) : (popRxq s).rdata = s.rdata := rfl
@[simp] theorem popRxq_rxbuf (s : State) : (popRxq s).rxbuf = s.rxbuf := rfl
@[simp] theorem popRxq_txbuf (s : State) : (popRxq s).txbuf = s.txbuf := rfl
@[simp] theorem popRxq_pc (s : State) : (popRxq s).pc = s.pc := rfl
@[simp] theorem popRxq_sub (s : State) : (popRxq s).sub = s.sub := rfl
@[simp] theorem popRxq_tgt (s : State) : (popRxq s).tgt = s.tgt := rfl
@[simp] theorem popRxq_txn (s : State) : (popRxq s).txn = s.txn := rfl
@[simp] theorem popRxq_txi (s : State) : (popRxq s).txi = s.txi := rfl
@[simp] theorem popRxq_nexp (s : State) : (popRxq s).nexp = s.nexp := rfl
@[simp] theorem popRxq_rxn (s : State) : (popRxq s).rxn = s.rxn := rfl
@[simp] theorem popRxq_rxi (s : State) : (popRxq s).rxi = s.rxi := rfl
@[simp] theorem popRxq_pollcnt (s : State) : (popRxq s).pollcnt = s.pollcnt := rfl
@[simp] theorem popRxq_werr (s : State) : (popRxq s).werr = s.werr := rfl
@[simp] theorem popRxq_waitCnt (s : State) : (popRxq s).waitCnt = s.waitCnt := rfl
@[simp] theorem popRxq_abortReq (s : State) : (popRxq s).abortReq = s.abortReq := rfl
@[simp] theorem popRxq_dir (s : State) : (popRxq s).dir = s.dir := rfl
@[simp] theorem popRxq_rxq (s : State) : (popRxq s).rxq = s.rxq.tail := rfl
@[simp] theorem popRxq_rst (s : State) : (popRxq s).rst = s.rst := rfl
@[simp] theorem popRxq_hostData (s : State) : (popRxq s).hostData = s.hostData := rfl
@[simp] theorem popRxq_bus (s : State) : (popRxq s).bus = s.bus := rfl
@[simp] theorem popRxq_events (s : State) : (popRxq s).events = s.events := rfl
@[simp] theorem popRxq_free (s : State) : (popRxq s).free = s.free := rfl

/-! ### `loadFrame` -/

@[simp] theorem loadFrame_cfg (frame : List Byte) (s : State) : (loadFrame frame s).cfg = s.cfg := rfl
@[simp] theorem loadFrame_bauddiv (frame : List Byte) (s : State) : (loadFrame frame s).bauddiv = s.bauddiv := rfl
@[simp] theorem loadFrame_settle (frame : List Byte) (s : State) : (loadFrame frame s).settle = s.settle := rfl
@[simp] theorem loadFrame_timeout (frame : List Byte) (s : State) : (loadFrame frame s).timeout = s.timeout := rfl
@[simp] theorem loadFrame_pollLimit (frame : List Byte) (s : State) :
    (loadFrame frame s).pollLimit = s.pollLimit := rfl
@[simp] theorem loadFrame_devId (frame : List Byte) (s : State) : (loadFrame frame s).devId = s.devId := rfl
@[simp] theorem loadFrame_cmdId (frame : List Byte) (s : State) : (loadFrame frame s).cmdId = s.cmdId := rfl
@[simp] theorem loadFrame_cmdAddr (frame : List Byte) (s : State) : (loadFrame frame s).cmdAddr = s.cmdAddr := rfl
@[simp] theorem loadFrame_cmdCount (frame : List Byte) (s : State) : (loadFrame frame s).cmdCount = s.cmdCount := rfl
@[simp] theorem loadFrame_cmdFlags (frame : List Byte) (s : State) : (loadFrame frame s).cmdFlags = s.cmdFlags := rfl
@[simp] theorem loadFrame_val (frame : List Byte) (s : State) : (loadFrame frame s).val = s.val := rfl
@[simp] theorem loadFrame_wdata (frame : List Byte) (s : State) : (loadFrame frame s).wdata = s.wdata := rfl
@[simp] theorem loadFrame_op (frame : List Byte) (s : State) : (loadFrame frame s).op = s.op := rfl
@[simp] theorem loadFrame_busy (frame : List Byte) (s : State) : (loadFrame frame s).busy = s.busy := rfl
@[simp] theorem loadFrame_done (frame : List Byte) (s : State) : (loadFrame frame s).done = s.done := rfl
@[simp] theorem loadFrame_malformed (frame : List Byte) (s : State) :
    (loadFrame frame s).malformed = s.malformed := rfl
@[simp] theorem loadFrame_faultSeen (frame : List Byte) (s : State) :
    (loadFrame frame s).faultSeen = s.faultSeen := rfl
@[simp] theorem loadFrame_ovr (frame : List Byte) (s : State) : (loadFrame frame s).ovr = s.ovr := rfl
@[simp] theorem loadFrame_lbMismatch (frame : List Byte) (s : State) :
    (loadFrame frame s).lbMismatch = s.lbMismatch := rfl
@[simp] theorem loadFrame_cc (frame : List Byte) (s : State) : (loadFrame frame s).cc = s.cc := rfl
@[simp] theorem loadFrame_err (frame : List Byte) (s : State) : (loadFrame frame s).err = s.err := rfl
@[simp] theorem loadFrame_rid (frame : List Byte) (s : State) : (loadFrame frame s).rid = s.rid := rfl
@[simp] theorem loadFrame_rcount (frame : List Byte) (s : State) : (loadFrame frame s).rcount = s.rcount := rfl
@[simp] theorem loadFrame_result (frame : List Byte) (s : State) : (loadFrame frame s).result = s.result := rfl
@[simp] theorem loadFrame_rdata (frame : List Byte) (s : State) : (loadFrame frame s).rdata = s.rdata := rfl
@[simp] theorem loadFrame_rxbuf (frame : List Byte) (s : State) : (loadFrame frame s).rxbuf = s.rxbuf := rfl
@[simp] theorem loadFrame_txbuf (frame : List Byte) (s : State) :
    (loadFrame frame s).txbuf = fill s.txbuf 0 frame := rfl
@[simp] theorem loadFrame_pc (frame : List Byte) (s : State) : (loadFrame frame s).pc = .txb := rfl
@[simp] theorem loadFrame_sub (frame : List Byte) (s : State) : (loadFrame frame s).sub = s.sub := rfl
@[simp] theorem loadFrame_tgt (frame : List Byte) (s : State) : (loadFrame frame s).tgt = s.tgt := rfl
@[simp] theorem loadFrame_txn (frame : List Byte) (s : State) : (loadFrame frame s).txn = frame.length := rfl
@[simp] theorem loadFrame_txi (frame : List Byte) (s : State) : (loadFrame frame s).txi = 0 := rfl
@[simp] theorem loadFrame_nexp (frame : List Byte) (s : State) : (loadFrame frame s).nexp = s.nexp := rfl
@[simp] theorem loadFrame_rxn (frame : List Byte) (s : State) : (loadFrame frame s).rxn = s.rxn := rfl
@[simp] theorem loadFrame_rxi (frame : List Byte) (s : State) : (loadFrame frame s).rxi = s.rxi := rfl
@[simp] theorem loadFrame_pollcnt (frame : List Byte) (s : State) : (loadFrame frame s).pollcnt = s.pollcnt := rfl
@[simp] theorem loadFrame_werr (frame : List Byte) (s : State) : (loadFrame frame s).werr = s.werr := rfl
@[simp] theorem loadFrame_waitCnt (frame : List Byte) (s : State) : (loadFrame frame s).waitCnt = s.waitCnt := rfl
@[simp] theorem loadFrame_abortReq (frame : List Byte) (s : State) : (loadFrame frame s).abortReq = s.abortReq := rfl
@[simp] theorem loadFrame_dir (frame : List Byte) (s : State) : (loadFrame frame s).dir = s.dir := rfl
@[simp] theorem loadFrame_rxq (frame : List Byte) (s : State) : (loadFrame frame s).rxq = s.rxq := rfl
@[simp] theorem loadFrame_rst (frame : List Byte) (s : State) : (loadFrame frame s).rst = s.rst := rfl
@[simp] theorem loadFrame_hostData (frame : List Byte) (s : State) : (loadFrame frame s).hostData = s.hostData := rfl
@[simp] theorem loadFrame_bus (frame : List Byte) (s : State) : (loadFrame frame s).bus = s.bus := rfl
@[simp] theorem loadFrame_events (frame : List Byte) (s : State) : (loadFrame frame s).events = s.events := rfl
@[simp] theorem loadFrame_free (frame : List Byte) (s : State) : (loadFrame frame s).free = s.free := rfl

/-! ### `transact` -/

@[simp] theorem transact_cfg (id instr : Byte) (params : List Byte) (n : Nat) (s : State) :
    (transact id instr params n s).cfg = s.cfg := rfl
@[simp] theorem transact_bauddiv (id instr : Byte) (params : List Byte) (n : Nat) (s : State) :
    (transact id instr params n s).bauddiv = s.bauddiv := rfl
@[simp] theorem transact_settle (id instr : Byte) (params : List Byte) (n : Nat) (s : State) :
    (transact id instr params n s).settle = s.settle := rfl
@[simp] theorem transact_timeout (id instr : Byte) (params : List Byte) (n : Nat) (s : State) :
    (transact id instr params n s).timeout = s.timeout := rfl
@[simp] theorem transact_pollLimit (id instr : Byte) (params : List Byte) (n : Nat) (s : State) :
    (transact id instr params n s).pollLimit = s.pollLimit := rfl
@[simp] theorem transact_devId (id instr : Byte) (params : List Byte) (n : Nat) (s : State) :
    (transact id instr params n s).devId = s.devId := rfl
@[simp] theorem transact_cmdId (id instr : Byte) (params : List Byte) (n : Nat) (s : State) :
    (transact id instr params n s).cmdId = s.cmdId := rfl
@[simp] theorem transact_cmdAddr (id instr : Byte) (params : List Byte) (n : Nat) (s : State) :
    (transact id instr params n s).cmdAddr = s.cmdAddr := rfl
@[simp] theorem transact_cmdCount (id instr : Byte) (params : List Byte) (n : Nat) (s : State) :
    (transact id instr params n s).cmdCount = s.cmdCount := rfl
@[simp] theorem transact_cmdFlags (id instr : Byte) (params : List Byte) (n : Nat) (s : State) :
    (transact id instr params n s).cmdFlags = s.cmdFlags := rfl
@[simp] theorem transact_val (id instr : Byte) (params : List Byte) (n : Nat) (s : State) :
    (transact id instr params n s).val = s.val := rfl
@[simp] theorem transact_wdata (id instr : Byte) (params : List Byte) (n : Nat) (s : State) :
    (transact id instr params n s).wdata = s.wdata := rfl
@[simp] theorem transact_op (id instr : Byte) (params : List Byte) (n : Nat) (s : State) :
    (transact id instr params n s).op = s.op := rfl
@[simp] theorem transact_busy (id instr : Byte) (params : List Byte) (n : Nat) (s : State) :
    (transact id instr params n s).busy = s.busy := rfl
@[simp] theorem transact_done (id instr : Byte) (params : List Byte) (n : Nat) (s : State) :
    (transact id instr params n s).done = s.done := rfl
@[simp] theorem transact_malformed (id instr : Byte) (params : List Byte) (n : Nat) (s : State) :
    (transact id instr params n s).malformed = s.malformed := rfl
@[simp] theorem transact_faultSeen (id instr : Byte) (params : List Byte) (n : Nat) (s : State) :
    (transact id instr params n s).faultSeen = s.faultSeen := rfl
@[simp] theorem transact_ovr (id instr : Byte) (params : List Byte) (n : Nat) (s : State) :
    (transact id instr params n s).ovr = s.ovr := rfl
@[simp] theorem transact_lbMismatch (id instr : Byte) (params : List Byte) (n : Nat) (s : State) :
    (transact id instr params n s).lbMismatch = s.lbMismatch := rfl
@[simp] theorem transact_cc (id instr : Byte) (params : List Byte) (n : Nat) (s : State) :
    (transact id instr params n s).cc = s.cc := rfl
@[simp] theorem transact_err (id instr : Byte) (params : List Byte) (n : Nat) (s : State) :
    (transact id instr params n s).err = s.err := rfl
@[simp] theorem transact_rid (id instr : Byte) (params : List Byte) (n : Nat) (s : State) :
    (transact id instr params n s).rid = s.rid := rfl
@[simp] theorem transact_rcount (id instr : Byte) (params : List Byte) (n : Nat) (s : State) :
    (transact id instr params n s).rcount = s.rcount := rfl
@[simp] theorem transact_result (id instr : Byte) (params : List Byte) (n : Nat) (s : State) :
    (transact id instr params n s).result = s.result := rfl
@[simp] theorem transact_rdata (id instr : Byte) (params : List Byte) (n : Nat) (s : State) :
    (transact id instr params n s).rdata = s.rdata := rfl
@[simp] theorem transact_rxbuf (id instr : Byte) (params : List Byte) (n : Nat) (s : State) :
    (transact id instr params n s).rxbuf = s.rxbuf := rfl
@[simp] theorem transact_txbuf (id instr : Byte) (params : List Byte) (n : Nat) (s : State) :
    (transact id instr params n s).txbuf = fill s.txbuf 0 (packet id instr params) :=
  by simp only [transact, loadFrame_txbuf]
@[simp] theorem transact_pc (id instr : Byte) (params : List Byte) (n : Nat) (s : State) :
    (transact id instr params n s).pc = .txb := rfl
@[simp] theorem transact_sub (id instr : Byte) (params : List Byte) (n : Nat) (s : State) :
    (transact id instr params n s).sub = s.sub := rfl
@[simp] theorem transact_tgt (id instr : Byte) (params : List Byte) (n : Nat) (s : State) :
    (transact id instr params n s).tgt = id := rfl
@[simp] theorem transact_txn (id instr : Byte) (params : List Byte) (n : Nat) (s : State) :
    (transact id instr params n s).txn = (packet id instr params).length := rfl
@[simp] theorem transact_txi (id instr : Byte) (params : List Byte) (n : Nat) (s : State) :
    (transact id instr params n s).txi = 0 := rfl
@[simp] theorem transact_nexp (id instr : Byte) (params : List Byte) (n : Nat) (s : State) :
    (transact id instr params n s).nexp = n := rfl
@[simp] theorem transact_rxn (id instr : Byte) (params : List Byte) (n : Nat) (s : State) :
    (transact id instr params n s).rxn = s.rxn := rfl
@[simp] theorem transact_rxi (id instr : Byte) (params : List Byte) (n : Nat) (s : State) :
    (transact id instr params n s).rxi = s.rxi := rfl
@[simp] theorem transact_pollcnt (id instr : Byte) (params : List Byte) (n : Nat) (s : State) :
    (transact id instr params n s).pollcnt = s.pollcnt := rfl
@[simp] theorem transact_werr (id instr : Byte) (params : List Byte) (n : Nat) (s : State) :
    (transact id instr params n s).werr = s.werr := rfl
@[simp] theorem transact_waitCnt (id instr : Byte) (params : List Byte) (n : Nat) (s : State) :
    (transact id instr params n s).waitCnt = s.waitCnt := rfl
@[simp] theorem transact_abortReq (id instr : Byte) (params : List Byte) (n : Nat) (s : State) :
    (transact id instr params n s).abortReq = s.abortReq := rfl
@[simp] theorem transact_dir (id instr : Byte) (params : List Byte) (n : Nat) (s : State) :
    (transact id instr params n s).dir = s.dir := rfl
@[simp] theorem transact_rxq (id instr : Byte) (params : List Byte) (n : Nat) (s : State) :
    (transact id instr params n s).rxq = s.rxq := rfl
@[simp] theorem transact_rst (id instr : Byte) (params : List Byte) (n : Nat) (s : State) :
    (transact id instr params n s).rst = s.rst := rfl
@[simp] theorem transact_hostData (id instr : Byte) (params : List Byte) (n : Nat) (s : State) :
    (transact id instr params n s).hostData = s.hostData := rfl
@[simp] theorem transact_bus (id instr : Byte) (params : List Byte) (n : Nat) (s : State) :
    (transact id instr params n s).bus = s.bus := rfl
@[simp] theorem transact_events (id instr : Byte) (params : List Byte) (n : Nat) (s : State) :
    (transact id instr params n s).events = s.events := rfl
@[simp] theorem transact_free (id instr : Byte) (params : List Byte) (n : Nat) (s : State) :
    (transact id instr params n s).free = s.free := rfl

/-! ### `enterSettle` -/

@[simp] theorem enterSettle_cfg (s : State) : (enterSettle s).cfg = s.cfg := rfl
@[simp] theorem enterSettle_bauddiv (s : State) : (enterSettle s).bauddiv = s.bauddiv := rfl
@[simp] theorem enterSettle_settle (s : State) : (enterSettle s).settle = s.settle := rfl
@[simp] theorem enterSettle_timeout (s : State) : (enterSettle s).timeout = s.timeout := rfl
@[simp] theorem enterSettle_pollLimit (s : State) : (enterSettle s).pollLimit = s.pollLimit := rfl
@[simp] theorem enterSettle_devId (s : State) : (enterSettle s).devId = s.devId := rfl
@[simp] theorem enterSettle_cmdId (s : State) : (enterSettle s).cmdId = s.cmdId := rfl
@[simp] theorem enterSettle_cmdAddr (s : State) : (enterSettle s).cmdAddr = s.cmdAddr := rfl
@[simp] theorem enterSettle_cmdCount (s : State) : (enterSettle s).cmdCount = s.cmdCount := rfl
@[simp] theorem enterSettle_cmdFlags (s : State) : (enterSettle s).cmdFlags = s.cmdFlags := rfl
@[simp] theorem enterSettle_val (s : State) : (enterSettle s).val = s.val := rfl
@[simp] theorem enterSettle_wdata (s : State) : (enterSettle s).wdata = s.wdata := rfl
@[simp] theorem enterSettle_op (s : State) : (enterSettle s).op = s.op := rfl
@[simp] theorem enterSettle_busy (s : State) : (enterSettle s).busy = s.busy := rfl
@[simp] theorem enterSettle_done (s : State) : (enterSettle s).done = s.done := rfl
@[simp] theorem enterSettle_malformed (s : State) : (enterSettle s).malformed = s.malformed := rfl
@[simp] theorem enterSettle_faultSeen (s : State) : (enterSettle s).faultSeen = s.faultSeen := rfl
@[simp] theorem enterSettle_ovr (s : State) : (enterSettle s).ovr = s.ovr := rfl
@[simp] theorem enterSettle_lbMismatch (s : State) : (enterSettle s).lbMismatch = s.lbMismatch := rfl
@[simp] theorem enterSettle_cc (s : State) : (enterSettle s).cc = s.cc := rfl
@[simp] theorem enterSettle_err (s : State) : (enterSettle s).err = s.err := rfl
@[simp] theorem enterSettle_rid (s : State) : (enterSettle s).rid = s.rid := rfl
@[simp] theorem enterSettle_rcount (s : State) : (enterSettle s).rcount = s.rcount := rfl
@[simp] theorem enterSettle_result (s : State) : (enterSettle s).result = s.result := rfl
@[simp] theorem enterSettle_rdata (s : State) : (enterSettle s).rdata = s.rdata := rfl
@[simp] theorem enterSettle_rxbuf (s : State) : (enterSettle s).rxbuf = s.rxbuf := rfl
@[simp] theorem enterSettle_txbuf (s : State) : (enterSettle s).txbuf = s.txbuf := rfl
@[simp] theorem enterSettle_pc (s : State) : (enterSettle s).pc = .settle := rfl
@[simp] theorem enterSettle_sub (s : State) : (enterSettle s).sub = s.sub := rfl
@[simp] theorem enterSettle_tgt (s : State) : (enterSettle s).tgt = s.tgt := rfl
@[simp] theorem enterSettle_txn (s : State) : (enterSettle s).txn = s.txn := rfl
@[simp] theorem enterSettle_txi (s : State) : (enterSettle s).txi = s.txi := rfl
@[simp] theorem enterSettle_nexp (s : State) : (enterSettle s).nexp = s.nexp := rfl
@[simp] theorem enterSettle_rxn (s : State) : (enterSettle s).rxn = s.rxn := rfl
@[simp] theorem enterSettle_rxi (s : State) : (enterSettle s).rxi = s.rxi := rfl
@[simp] theorem enterSettle_pollcnt (s : State) : (enterSettle s).pollcnt = s.pollcnt := rfl
@[simp] theorem enterSettle_werr (s : State) : (enterSettle s).werr = s.werr := rfl
@[simp] theorem enterSettle_waitCnt (s : State) : (enterSettle s).waitCnt = 0#32 := rfl
@[simp] theorem enterSettle_abortReq (s : State) : (enterSettle s).abortReq = s.abortReq := rfl
@[simp] theorem enterSettle_dir (s : State) : (enterSettle s).dir = s.dir := rfl
@[simp] theorem enterSettle_rxq (s : State) : (enterSettle s).rxq = s.rxq := rfl
@[simp] theorem enterSettle_rst (s : State) : (enterSettle s).rst = s.rst := rfl
@[simp] theorem enterSettle_hostData (s : State) : (enterSettle s).hostData = s.hostData := rfl
@[simp] theorem enterSettle_bus (s : State) : (enterSettle s).bus = s.bus := rfl
@[simp] theorem enterSettle_events (s : State) : (enterSettle s).events = s.events := rfl
@[simp] theorem enterSettle_free (s : State) : (enterSettle s).free = s.free := rfl

/-! ### `enterReceive` -/

@[simp] theorem enterReceive_cfg (s : State) : (enterReceive s).cfg = s.cfg := rfl
@[simp] theorem enterReceive_bauddiv (s : State) : (enterReceive s).bauddiv = s.bauddiv := rfl
@[simp] theorem enterReceive_settle (s : State) : (enterReceive s).settle = s.settle := rfl
@[simp] theorem enterReceive_timeout (s : State) : (enterReceive s).timeout = s.timeout := rfl
@[simp] theorem enterReceive_pollLimit (s : State) : (enterReceive s).pollLimit = s.pollLimit := rfl
@[simp] theorem enterReceive_devId (s : State) : (enterReceive s).devId = s.devId := rfl
@[simp] theorem enterReceive_cmdId (s : State) : (enterReceive s).cmdId = s.cmdId := rfl
@[simp] theorem enterReceive_cmdAddr (s : State) : (enterReceive s).cmdAddr = s.cmdAddr := rfl
@[simp] theorem enterReceive_cmdCount (s : State) : (enterReceive s).cmdCount = s.cmdCount := rfl
@[simp] theorem enterReceive_cmdFlags (s : State) : (enterReceive s).cmdFlags = s.cmdFlags := rfl
@[simp] theorem enterReceive_val (s : State) : (enterReceive s).val = s.val := rfl
@[simp] theorem enterReceive_wdata (s : State) : (enterReceive s).wdata = s.wdata := rfl
@[simp] theorem enterReceive_op (s : State) : (enterReceive s).op = s.op := rfl
@[simp] theorem enterReceive_busy (s : State) : (enterReceive s).busy = s.busy := rfl
@[simp] theorem enterReceive_done (s : State) : (enterReceive s).done = s.done := rfl
@[simp] theorem enterReceive_malformed (s : State) : (enterReceive s).malformed = s.malformed := rfl
@[simp] theorem enterReceive_faultSeen (s : State) : (enterReceive s).faultSeen = s.faultSeen := rfl
@[simp] theorem enterReceive_ovr (s : State) : (enterReceive s).ovr = s.ovr := rfl
@[simp] theorem enterReceive_lbMismatch (s : State) : (enterReceive s).lbMismatch = s.lbMismatch := rfl
@[simp] theorem enterReceive_cc (s : State) : (enterReceive s).cc = s.cc := rfl
@[simp] theorem enterReceive_err (s : State) : (enterReceive s).err = s.err := rfl
@[simp] theorem enterReceive_rid (s : State) : (enterReceive s).rid = s.rid := rfl
@[simp] theorem enterReceive_rcount (s : State) : (enterReceive s).rcount = s.rcount := rfl
@[simp] theorem enterReceive_result (s : State) : (enterReceive s).result = s.result := rfl
@[simp] theorem enterReceive_rdata (s : State) : (enterReceive s).rdata = s.rdata := rfl
@[simp] theorem enterReceive_rxbuf (s : State) : (enterReceive s).rxbuf = s.rxbuf := rfl
@[simp] theorem enterReceive_txbuf (s : State) : (enterReceive s).txbuf = s.txbuf := rfl
@[simp] theorem enterReceive_pc (s : State) : (enterReceive s).pc = .rxb := rfl
@[simp] theorem enterReceive_sub (s : State) : (enterReceive s).sub = s.sub := rfl
@[simp] theorem enterReceive_tgt (s : State) : (enterReceive s).tgt = s.tgt := rfl
@[simp] theorem enterReceive_txn (s : State) : (enterReceive s).txn = s.txn := rfl
@[simp] theorem enterReceive_txi (s : State) : (enterReceive s).txi = s.txi := rfl
@[simp] theorem enterReceive_nexp (s : State) : (enterReceive s).nexp = s.nexp := rfl
@[simp] theorem enterReceive_rxn (s : State) : (enterReceive s).rxn = 6 + s.nexp := rfl
@[simp] theorem enterReceive_rxi (s : State) : (enterReceive s).rxi = 0 := rfl
@[simp] theorem enterReceive_pollcnt (s : State) : (enterReceive s).pollcnt = s.pollcnt := rfl
@[simp] theorem enterReceive_werr (s : State) : (enterReceive s).werr = s.werr := rfl
@[simp] theorem enterReceive_waitCnt (s : State) : (enterReceive s).waitCnt = 0#32 := rfl
@[simp] theorem enterReceive_abortReq (s : State) : (enterReceive s).abortReq = s.abortReq := rfl
@[simp] theorem enterReceive_dir (s : State) : (enterReceive s).dir = s.dir := rfl
@[simp] theorem enterReceive_rxq (s : State) : (enterReceive s).rxq = s.rxq := rfl
@[simp] theorem enterReceive_rst (s : State) : (enterReceive s).rst = s.rst := rfl
@[simp] theorem enterReceive_hostData (s : State) : (enterReceive s).hostData = s.hostData := rfl
@[simp] theorem enterReceive_bus (s : State) : (enterReceive s).bus = s.bus := rfl
@[simp] theorem enterReceive_events (s : State) : (enterReceive s).events = s.events := rfl
@[simp] theorem enterReceive_free (s : State) : (enterReceive s).free = s.free := rfl

/-! ### `broadcastDone` -/

@[simp] theorem broadcastDone_cfg (s : State) : (broadcastDone s).cfg = s.cfg := rfl
@[simp] theorem broadcastDone_bauddiv (s : State) : (broadcastDone s).bauddiv = s.bauddiv := rfl
@[simp] theorem broadcastDone_settle (s : State) : (broadcastDone s).settle = s.settle := rfl
@[simp] theorem broadcastDone_timeout (s : State) : (broadcastDone s).timeout = s.timeout := rfl
@[simp] theorem broadcastDone_pollLimit (s : State) : (broadcastDone s).pollLimit = s.pollLimit := rfl
@[simp] theorem broadcastDone_devId (s : State) : (broadcastDone s).devId = s.devId := rfl
@[simp] theorem broadcastDone_cmdId (s : State) : (broadcastDone s).cmdId = s.cmdId := rfl
@[simp] theorem broadcastDone_cmdAddr (s : State) : (broadcastDone s).cmdAddr = s.cmdAddr := rfl
@[simp] theorem broadcastDone_cmdCount (s : State) : (broadcastDone s).cmdCount = s.cmdCount := rfl
@[simp] theorem broadcastDone_cmdFlags (s : State) : (broadcastDone s).cmdFlags = s.cmdFlags := rfl
@[simp] theorem broadcastDone_val (s : State) : (broadcastDone s).val = s.val := rfl
@[simp] theorem broadcastDone_wdata (s : State) : (broadcastDone s).wdata = s.wdata := rfl
@[simp] theorem broadcastDone_op (s : State) : (broadcastDone s).op = s.op := rfl
@[simp] theorem broadcastDone_busy (s : State) : (broadcastDone s).busy = s.busy := rfl
@[simp] theorem broadcastDone_done (s : State) : (broadcastDone s).done = s.done := rfl
@[simp] theorem broadcastDone_malformed (s : State) : (broadcastDone s).malformed = s.malformed := rfl
@[simp] theorem broadcastDone_faultSeen (s : State) : (broadcastDone s).faultSeen = s.faultSeen := rfl
@[simp] theorem broadcastDone_ovr (s : State) : (broadcastDone s).ovr = s.ovr := rfl
@[simp] theorem broadcastDone_lbMismatch (s : State) : (broadcastDone s).lbMismatch = s.lbMismatch := rfl
@[simp] theorem broadcastDone_cc (s : State) : (broadcastDone s).cc = s.cc := rfl
@[simp] theorem broadcastDone_err (s : State) : (broadcastDone s).err = 0#8 := rfl
@[simp] theorem broadcastDone_rid (s : State) : (broadcastDone s).rid = s.rid := rfl
@[simp] theorem broadcastDone_rcount (s : State) : (broadcastDone s).rcount = 0#8 := rfl
@[simp] theorem broadcastDone_result (s : State) : (broadcastDone s).result = s.result := rfl
@[simp] theorem broadcastDone_rdata (s : State) : (broadcastDone s).rdata = s.rdata := rfl
@[simp] theorem broadcastDone_rxbuf (s : State) : (broadcastDone s).rxbuf = s.rxbuf := rfl
@[simp] theorem broadcastDone_txbuf (s : State) : (broadcastDone s).txbuf = s.txbuf := rfl
@[simp] theorem broadcastDone_pc (s : State) : (broadcastDone s).pc = s.pc := rfl
@[simp] theorem broadcastDone_sub (s : State) : (broadcastDone s).sub = s.sub := rfl
@[simp] theorem broadcastDone_tgt (s : State) : (broadcastDone s).tgt = s.tgt := rfl
@[simp] theorem broadcastDone_txn (s : State) : (broadcastDone s).txn = s.txn := rfl
@[simp] theorem broadcastDone_txi (s : State) : (broadcastDone s).txi = s.txi := rfl
@[simp] theorem broadcastDone_nexp (s : State) : (broadcastDone s).nexp = s.nexp := rfl
@[simp] theorem broadcastDone_rxn (s : State) : (broadcastDone s).rxn = s.rxn := rfl
@[simp] theorem broadcastDone_rxi (s : State) : (broadcastDone s).rxi = s.rxi := rfl
@[simp] theorem broadcastDone_pollcnt (s : State) : (broadcastDone s).pollcnt = s.pollcnt := rfl
@[simp] theorem broadcastDone_werr (s : State) : (broadcastDone s).werr = s.werr := rfl
@[simp] theorem broadcastDone_waitCnt (s : State) : (broadcastDone s).waitCnt = s.waitCnt := rfl
@[simp] theorem broadcastDone_abortReq (s : State) : (broadcastDone s).abortReq = s.abortReq := rfl
@[simp] theorem broadcastDone_dir (s : State) : (broadcastDone s).dir = s.dir := rfl
@[simp] theorem broadcastDone_rxq (s : State) : (broadcastDone s).rxq = s.rxq := rfl
@[simp] theorem broadcastDone_rst (s : State) : (broadcastDone s).rst = s.rst := rfl
@[simp] theorem broadcastDone_hostData (s : State) : (broadcastDone s).hostData = s.hostData := rfl
@[simp] theorem broadcastDone_bus (s : State) : (broadcastDone s).bus = s.bus := rfl
@[simp] theorem broadcastDone_events (s : State) : (broadcastDone s).events = s.events := rfl
@[simp] theorem broadcastDone_free (s : State) : (broadcastDone s).free = s.free := rfl

/-! ### `decodeStatus` -/

@[simp] theorem decodeStatus_cfg (id len err : Byte) (params : List Byte) (chk : Byte) (s : State) :
    (decodeStatus id len err params chk s).cfg = s.cfg := rfl
@[simp] theorem decodeStatus_bauddiv (id len err : Byte) (params : List Byte) (chk : Byte) (s : State) :
    (decodeStatus id len err params chk s).bauddiv = s.bauddiv := rfl
@[simp] theorem decodeStatus_settle (id len err : Byte) (params : List Byte) (chk : Byte) (s : State) :
    (decodeStatus id len err params chk s).settle = s.settle := rfl
@[simp] theorem decodeStatus_timeout (id len err : Byte) (params : List Byte) (chk : Byte) (s : State) :
    (decodeStatus id len err params chk s).timeout = s.timeout := rfl
@[simp] theorem decodeStatus_pollLimit (id len err : Byte) (params : List Byte) (chk : Byte) (s : State) :
    (decodeStatus id len err params chk s).pollLimit = s.pollLimit := rfl
@[simp] theorem decodeStatus_devId (id len err : Byte) (params : List Byte) (chk : Byte) (s : State) :
    (decodeStatus id len err params chk s).devId = s.devId := rfl
@[simp] theorem decodeStatus_cmdId (id len err : Byte) (params : List Byte) (chk : Byte) (s : State) :
    (decodeStatus id len err params chk s).cmdId = s.cmdId := rfl
@[simp] theorem decodeStatus_cmdAddr (id len err : Byte) (params : List Byte) (chk : Byte) (s : State) :
    (decodeStatus id len err params chk s).cmdAddr = s.cmdAddr := rfl
@[simp] theorem decodeStatus_cmdCount (id len err : Byte) (params : List Byte) (chk : Byte) (s : State) :
    (decodeStatus id len err params chk s).cmdCount = s.cmdCount := rfl
@[simp] theorem decodeStatus_cmdFlags (id len err : Byte) (params : List Byte) (chk : Byte) (s : State) :
    (decodeStatus id len err params chk s).cmdFlags = s.cmdFlags := rfl
@[simp] theorem decodeStatus_val (id len err : Byte) (params : List Byte) (chk : Byte) (s : State) :
    (decodeStatus id len err params chk s).val = s.val := rfl
@[simp] theorem decodeStatus_wdata (id len err : Byte) (params : List Byte) (chk : Byte) (s : State) :
    (decodeStatus id len err params chk s).wdata = s.wdata := rfl
@[simp] theorem decodeStatus_op (id len err : Byte) (params : List Byte) (chk : Byte) (s : State) :
    (decodeStatus id len err params chk s).op = s.op := rfl
@[simp] theorem decodeStatus_busy (id len err : Byte) (params : List Byte) (chk : Byte) (s : State) :
    (decodeStatus id len err params chk s).busy = s.busy := rfl
@[simp] theorem decodeStatus_done (id len err : Byte) (params : List Byte) (chk : Byte) (s : State) :
    (decodeStatus id len err params chk s).done = s.done := rfl
@[simp] theorem decodeStatus_malformed (id len err : Byte) (params : List Byte) (chk : Byte) (s : State) :
    (decodeStatus id len err params chk s).malformed = malformedAfter id len err params chk s := rfl
@[simp] theorem decodeStatus_faultSeen (id len err : Byte) (params : List Byte) (chk : Byte) (s : State) :
    (decodeStatus id len err params chk s).faultSeen = faultSeenAfter err s := rfl
@[simp] theorem decodeStatus_ovr (id len err : Byte) (params : List Byte) (chk : Byte) (s : State) :
    (decodeStatus id len err params chk s).ovr = s.ovr := rfl
@[simp] theorem decodeStatus_lbMismatch (id len err : Byte) (params : List Byte) (chk : Byte) (s : State) :
    (decodeStatus id len err params chk s).lbMismatch = s.lbMismatch := rfl
@[simp] theorem decodeStatus_cc (id len err : Byte) (params : List Byte) (chk : Byte) (s : State) :
    (decodeStatus id len err params chk s).cc = s.cc := rfl
@[simp] theorem decodeStatus_err (id len err : Byte) (params : List Byte) (chk : Byte) (s : State) :
    (decodeStatus id len err params chk s).err = err := rfl
@[simp] theorem decodeStatus_rid (id len err : Byte) (params : List Byte) (chk : Byte) (s : State) :
    (decodeStatus id len err params chk s).rid = id := rfl
@[simp] theorem decodeStatus_rcount (id len err : Byte) (params : List Byte) (chk : Byte) (s : State) :
    (decodeStatus id len err params chk s).rcount = BitVec.ofNat 8 params.length := rfl
@[simp] theorem decodeStatus_result (id len err : Byte) (params : List Byte) (chk : Byte) (s : State) :
    (decodeStatus id len err params chk s).result = s.result := rfl
@[simp] theorem decodeStatus_rdata (id len err : Byte) (params : List Byte) (chk : Byte) (s : State) :
    (decodeStatus id len err params chk s).rdata = fill s.rdata 0 params := rfl
@[simp] theorem decodeStatus_rxbuf (id len err : Byte) (params : List Byte) (chk : Byte) (s : State) :
    (decodeStatus id len err params chk s).rxbuf = s.rxbuf := rfl
@[simp] theorem decodeStatus_txbuf (id len err : Byte) (params : List Byte) (chk : Byte) (s : State) :
    (decodeStatus id len err params chk s).txbuf = s.txbuf := rfl
@[simp] theorem decodeStatus_pc (id len err : Byte) (params : List Byte) (chk : Byte) (s : State) :
    (decodeStatus id len err params chk s).pc = s.pc := rfl
@[simp] theorem decodeStatus_sub (id len err : Byte) (params : List Byte) (chk : Byte) (s : State) :
    (decodeStatus id len err params chk s).sub = s.sub := rfl
@[simp] theorem decodeStatus_tgt (id len err : Byte) (params : List Byte) (chk : Byte) (s : State) :
    (decodeStatus id len err params chk s).tgt = s.tgt := rfl
@[simp] theorem decodeStatus_txn (id len err : Byte) (params : List Byte) (chk : Byte) (s : State) :
    (decodeStatus id len err params chk s).txn = s.txn := rfl
@[simp] theorem decodeStatus_txi (id len err : Byte) (params : List Byte) (chk : Byte) (s : State) :
    (decodeStatus id len err params chk s).txi = s.txi := rfl
@[simp] theorem decodeStatus_nexp (id len err : Byte) (params : List Byte) (chk : Byte) (s : State) :
    (decodeStatus id len err params chk s).nexp = s.nexp := rfl
@[simp] theorem decodeStatus_rxn (id len err : Byte) (params : List Byte) (chk : Byte) (s : State) :
    (decodeStatus id len err params chk s).rxn = s.rxn := rfl
@[simp] theorem decodeStatus_rxi (id len err : Byte) (params : List Byte) (chk : Byte) (s : State) :
    (decodeStatus id len err params chk s).rxi = s.rxi := rfl
@[simp] theorem decodeStatus_pollcnt (id len err : Byte) (params : List Byte) (chk : Byte) (s : State) :
    (decodeStatus id len err params chk s).pollcnt = s.pollcnt := rfl
@[simp] theorem decodeStatus_werr (id len err : Byte) (params : List Byte) (chk : Byte) (s : State) :
    (decodeStatus id len err params chk s).werr = s.werr := rfl
@[simp] theorem decodeStatus_waitCnt (id len err : Byte) (params : List Byte) (chk : Byte) (s : State) :
    (decodeStatus id len err params chk s).waitCnt = s.waitCnt := rfl
@[simp] theorem decodeStatus_abortReq (id len err : Byte) (params : List Byte) (chk : Byte) (s : State) :
    (decodeStatus id len err params chk s).abortReq = s.abortReq := rfl
@[simp] theorem decodeStatus_dir (id len err : Byte) (params : List Byte) (chk : Byte) (s : State) :
    (decodeStatus id len err params chk s).dir = s.dir := rfl
@[simp] theorem decodeStatus_rxq (id len err : Byte) (params : List Byte) (chk : Byte) (s : State) :
    (decodeStatus id len err params chk s).rxq = s.rxq := rfl
@[simp] theorem decodeStatus_rst (id len err : Byte) (params : List Byte) (chk : Byte) (s : State) :
    (decodeStatus id len err params chk s).rst = s.rst := rfl
@[simp] theorem decodeStatus_hostData (id len err : Byte) (params : List Byte) (chk : Byte) (s : State) :
    (decodeStatus id len err params chk s).hostData = s.hostData := rfl
@[simp] theorem decodeStatus_bus (id len err : Byte) (params : List Byte) (chk : Byte) (s : State) :
    (decodeStatus id len err params chk s).bus = s.bus := rfl
@[simp] theorem decodeStatus_events (id len err : Byte) (params : List Byte) (chk : Byte) (s : State) :
    (decodeStatus id len err params chk s).events = s.events := rfl
@[simp] theorem decodeStatus_free (id len err : Byte) (params : List Byte) (chk : Byte) (s : State) :
    (decodeStatus id len err params chk s).free = s.free := rfl

/-! ### `setResult` -/

@[simp] theorem setResult_cfg (v : Int) (s : State) : (setResult v s).cfg = s.cfg := rfl
@[simp] theorem setResult_bauddiv (v : Int) (s : State) : (setResult v s).bauddiv = s.bauddiv := rfl
@[simp] theorem setResult_settle (v : Int) (s : State) : (setResult v s).settle = s.settle := rfl
@[simp] theorem setResult_timeout (v : Int) (s : State) : (setResult v s).timeout = s.timeout := rfl
@[simp] theorem setResult_pollLimit (v : Int) (s : State) : (setResult v s).pollLimit = s.pollLimit := rfl
@[simp] theorem setResult_devId (v : Int) (s : State) : (setResult v s).devId = s.devId := rfl
@[simp] theorem setResult_cmdId (v : Int) (s : State) : (setResult v s).cmdId = s.cmdId := rfl
@[simp] theorem setResult_cmdAddr (v : Int) (s : State) : (setResult v s).cmdAddr = s.cmdAddr := rfl
@[simp] theorem setResult_cmdCount (v : Int) (s : State) : (setResult v s).cmdCount = s.cmdCount := rfl
@[simp] theorem setResult_cmdFlags (v : Int) (s : State) : (setResult v s).cmdFlags = s.cmdFlags := rfl
@[simp] theorem setResult_val (v : Int) (s : State) : (setResult v s).val = s.val := rfl
@[simp] theorem setResult_wdata (v : Int) (s : State) : (setResult v s).wdata = s.wdata := rfl
@[simp] theorem setResult_op (v : Int) (s : State) : (setResult v s).op = s.op := rfl
@[simp] theorem setResult_busy (v : Int) (s : State) : (setResult v s).busy = s.busy := rfl
@[simp] theorem setResult_done (v : Int) (s : State) : (setResult v s).done = s.done := rfl
@[simp] theorem setResult_malformed (v : Int) (s : State) : (setResult v s).malformed = s.malformed := rfl
@[simp] theorem setResult_faultSeen (v : Int) (s : State) : (setResult v s).faultSeen = s.faultSeen := rfl
@[simp] theorem setResult_ovr (v : Int) (s : State) : (setResult v s).ovr = s.ovr := rfl
@[simp] theorem setResult_lbMismatch (v : Int) (s : State) : (setResult v s).lbMismatch = s.lbMismatch := rfl
@[simp] theorem setResult_cc (v : Int) (s : State) : (setResult v s).cc = s.cc := rfl
@[simp] theorem setResult_err (v : Int) (s : State) : (setResult v s).err = s.err := rfl
@[simp] theorem setResult_rid (v : Int) (s : State) : (setResult v s).rid = s.rid := rfl
@[simp] theorem setResult_rcount (v : Int) (s : State) : (setResult v s).rcount = s.rcount := rfl
@[simp] theorem setResult_result (v : Int) (s : State) : (setResult v s).result = BitVec.ofInt 32 v := rfl
@[simp] theorem setResult_rdata (v : Int) (s : State) : (setResult v s).rdata = s.rdata := rfl
@[simp] theorem setResult_rxbuf (v : Int) (s : State) : (setResult v s).rxbuf = s.rxbuf := rfl
@[simp] theorem setResult_txbuf (v : Int) (s : State) : (setResult v s).txbuf = s.txbuf := rfl
@[simp] theorem setResult_pc (v : Int) (s : State) : (setResult v s).pc = s.pc := rfl
@[simp] theorem setResult_sub (v : Int) (s : State) : (setResult v s).sub = s.sub := rfl
@[simp] theorem setResult_tgt (v : Int) (s : State) : (setResult v s).tgt = s.tgt := rfl
@[simp] theorem setResult_txn (v : Int) (s : State) : (setResult v s).txn = s.txn := rfl
@[simp] theorem setResult_txi (v : Int) (s : State) : (setResult v s).txi = s.txi := rfl
@[simp] theorem setResult_nexp (v : Int) (s : State) : (setResult v s).nexp = s.nexp := rfl
@[simp] theorem setResult_rxn (v : Int) (s : State) : (setResult v s).rxn = s.rxn := rfl
@[simp] theorem setResult_rxi (v : Int) (s : State) : (setResult v s).rxi = s.rxi := rfl
@[simp] theorem setResult_pollcnt (v : Int) (s : State) : (setResult v s).pollcnt = s.pollcnt := rfl
@[simp] theorem setResult_werr (v : Int) (s : State) : (setResult v s).werr = s.werr := rfl
@[simp] theorem setResult_waitCnt (v : Int) (s : State) : (setResult v s).waitCnt = s.waitCnt := rfl
@[simp] theorem setResult_abortReq (v : Int) (s : State) : (setResult v s).abortReq = s.abortReq := rfl
@[simp] theorem setResult_dir (v : Int) (s : State) : (setResult v s).dir = s.dir := rfl
@[simp] theorem setResult_rxq (v : Int) (s : State) : (setResult v s).rxq = s.rxq := rfl
@[simp] theorem setResult_rst (v : Int) (s : State) : (setResult v s).rst = s.rst := rfl
@[simp] theorem setResult_hostData (v : Int) (s : State) : (setResult v s).hostData = s.hostData := rfl
@[simp] theorem setResult_bus (v : Int) (s : State) : (setResult v s).bus = s.bus := rfl
@[simp] theorem setResult_events (v : Int) (s : State) : (setResult v s).events = s.events := rfl
@[simp] theorem setResult_free (v : Int) (s : State) : (setResult v s).free = s.free := rfl

/-! ### `restoreErr` -/

@[simp] theorem restoreErr_cfg (s : State) : (restoreErr s).cfg = s.cfg := rfl
@[simp] theorem restoreErr_bauddiv (s : State) : (restoreErr s).bauddiv = s.bauddiv := rfl
@[simp] theorem restoreErr_settle (s : State) : (restoreErr s).settle = s.settle := rfl
@[simp] theorem restoreErr_timeout (s : State) : (restoreErr s).timeout = s.timeout := rfl
@[simp] theorem restoreErr_pollLimit (s : State) : (restoreErr s).pollLimit = s.pollLimit := rfl
@[simp] theorem restoreErr_devId (s : State) : (restoreErr s).devId = s.devId := rfl
@[simp] theorem restoreErr_cmdId (s : State) : (restoreErr s).cmdId = s.cmdId := rfl
@[simp] theorem restoreErr_cmdAddr (s : State) : (restoreErr s).cmdAddr = s.cmdAddr := rfl
@[simp] theorem restoreErr_cmdCount (s : State) : (restoreErr s).cmdCount = s.cmdCount := rfl
@[simp] theorem restoreErr_cmdFlags (s : State) : (restoreErr s).cmdFlags = s.cmdFlags := rfl
@[simp] theorem restoreErr_val (s : State) : (restoreErr s).val = s.val := rfl
@[simp] theorem restoreErr_wdata (s : State) : (restoreErr s).wdata = s.wdata := rfl
@[simp] theorem restoreErr_op (s : State) : (restoreErr s).op = s.op := rfl
@[simp] theorem restoreErr_busy (s : State) : (restoreErr s).busy = s.busy := rfl
@[simp] theorem restoreErr_done (s : State) : (restoreErr s).done = s.done := rfl
@[simp] theorem restoreErr_malformed (s : State) : (restoreErr s).malformed = s.malformed := rfl
@[simp] theorem restoreErr_faultSeen (s : State) : (restoreErr s).faultSeen = s.faultSeen := rfl
@[simp] theorem restoreErr_ovr (s : State) : (restoreErr s).ovr = s.ovr := rfl
@[simp] theorem restoreErr_lbMismatch (s : State) : (restoreErr s).lbMismatch = s.lbMismatch := rfl
@[simp] theorem restoreErr_cc (s : State) : (restoreErr s).cc = s.cc := rfl
@[simp] theorem restoreErr_err (s : State) : (restoreErr s).err = s.werr := rfl
@[simp] theorem restoreErr_rid (s : State) : (restoreErr s).rid = s.rid := rfl
@[simp] theorem restoreErr_rcount (s : State) : (restoreErr s).rcount = s.rcount := rfl
@[simp] theorem restoreErr_result (s : State) : (restoreErr s).result = s.result := rfl
@[simp] theorem restoreErr_rdata (s : State) : (restoreErr s).rdata = s.rdata := rfl
@[simp] theorem restoreErr_rxbuf (s : State) : (restoreErr s).rxbuf = s.rxbuf := rfl
@[simp] theorem restoreErr_txbuf (s : State) : (restoreErr s).txbuf = s.txbuf := rfl
@[simp] theorem restoreErr_pc (s : State) : (restoreErr s).pc = s.pc := rfl
@[simp] theorem restoreErr_sub (s : State) : (restoreErr s).sub = s.sub := rfl
@[simp] theorem restoreErr_tgt (s : State) : (restoreErr s).tgt = s.tgt := rfl
@[simp] theorem restoreErr_txn (s : State) : (restoreErr s).txn = s.txn := rfl
@[simp] theorem restoreErr_txi (s : State) : (restoreErr s).txi = s.txi := rfl
@[simp] theorem restoreErr_nexp (s : State) : (restoreErr s).nexp = s.nexp := rfl
@[simp] theorem restoreErr_rxn (s : State) : (restoreErr s).rxn = s.rxn := rfl
@[simp] theorem restoreErr_rxi (s : State) : (restoreErr s).rxi = s.rxi := rfl
@[simp] theorem restoreErr_pollcnt (s : State) : (restoreErr s).pollcnt = s.pollcnt := rfl
@[simp] theorem restoreErr_werr (s : State) : (restoreErr s).werr = s.werr := rfl
@[simp] theorem restoreErr_waitCnt (s : State) : (restoreErr s).waitCnt = s.waitCnt := rfl
@[simp] theorem restoreErr_abortReq (s : State) : (restoreErr s).abortReq = s.abortReq := rfl
@[simp] theorem restoreErr_dir (s : State) : (restoreErr s).dir = s.dir := rfl
@[simp] theorem restoreErr_rxq (s : State) : (restoreErr s).rxq = s.rxq := rfl
@[simp] theorem restoreErr_rst (s : State) : (restoreErr s).rst = s.rst := rfl
@[simp] theorem restoreErr_hostData (s : State) : (restoreErr s).hostData = s.hostData := rfl
@[simp] theorem restoreErr_bus (s : State) : (restoreErr s).bus = s.bus := rfl
@[simp] theorem restoreErr_events (s : State) : (restoreErr s).events = s.events := rfl
@[simp] theorem restoreErr_free (s : State) : (restoreErr s).free = s.free := rfl

/-! ### `awaitByte` -/

@[simp] theorem awaitByte_cfg (s : State) : (awaitByte s).cfg = s.cfg := rfl
@[simp] theorem awaitByte_bauddiv (s : State) : (awaitByte s).bauddiv = s.bauddiv := rfl
@[simp] theorem awaitByte_settle (s : State) : (awaitByte s).settle = s.settle := rfl
@[simp] theorem awaitByte_timeout (s : State) : (awaitByte s).timeout = s.timeout := rfl
@[simp] theorem awaitByte_pollLimit (s : State) : (awaitByte s).pollLimit = s.pollLimit := rfl
@[simp] theorem awaitByte_devId (s : State) : (awaitByte s).devId = s.devId := rfl
@[simp] theorem awaitByte_cmdId (s : State) : (awaitByte s).cmdId = s.cmdId := rfl
@[simp] theorem awaitByte_cmdAddr (s : State) : (awaitByte s).cmdAddr = s.cmdAddr := rfl
@[simp] theorem awaitByte_cmdCount (s : State) : (awaitByte s).cmdCount = s.cmdCount := rfl
@[simp] theorem awaitByte_cmdFlags (s : State) : (awaitByte s).cmdFlags = s.cmdFlags := rfl
@[simp] theorem awaitByte_val (s : State) : (awaitByte s).val = s.val := rfl
@[simp] theorem awaitByte_wdata (s : State) : (awaitByte s).wdata = s.wdata := rfl
@[simp] theorem awaitByte_op (s : State) : (awaitByte s).op = s.op := rfl
@[simp] theorem awaitByte_busy (s : State) : (awaitByte s).busy = s.busy := rfl
@[simp] theorem awaitByte_done (s : State) : (awaitByte s).done = s.done := rfl
@[simp] theorem awaitByte_malformed (s : State) : (awaitByte s).malformed = s.malformed := rfl
@[simp] theorem awaitByte_faultSeen (s : State) : (awaitByte s).faultSeen = s.faultSeen := rfl
@[simp] theorem awaitByte_ovr (s : State) : (awaitByte s).ovr = s.ovr := rfl
@[simp] theorem awaitByte_lbMismatch (s : State) : (awaitByte s).lbMismatch = s.lbMismatch := rfl
@[simp] theorem awaitByte_cc (s : State) : (awaitByte s).cc = s.cc := rfl
@[simp] theorem awaitByte_err (s : State) : (awaitByte s).err = s.err := rfl
@[simp] theorem awaitByte_rid (s : State) : (awaitByte s).rid = s.rid := rfl
@[simp] theorem awaitByte_rcount (s : State) : (awaitByte s).rcount = s.rcount := rfl
@[simp] theorem awaitByte_result (s : State) : (awaitByte s).result = s.result := rfl
@[simp] theorem awaitByte_rdata (s : State) : (awaitByte s).rdata = s.rdata := rfl
@[simp] theorem awaitByte_rxbuf (s : State) : (awaitByte s).rxbuf = s.rxbuf := rfl
@[simp] theorem awaitByte_txbuf (s : State) : (awaitByte s).txbuf = s.txbuf := rfl
@[simp] theorem awaitByte_pc (s : State) : (awaitByte s).pc = .rxb := rfl
@[simp] theorem awaitByte_sub (s : State) : (awaitByte s).sub = s.sub := rfl
@[simp] theorem awaitByte_tgt (s : State) : (awaitByte s).tgt = s.tgt := rfl
@[simp] theorem awaitByte_txn (s : State) : (awaitByte s).txn = s.txn := rfl
@[simp] theorem awaitByte_txi (s : State) : (awaitByte s).txi = s.txi := rfl
@[simp] theorem awaitByte_nexp (s : State) : (awaitByte s).nexp = s.nexp := rfl
@[simp] theorem awaitByte_rxn (s : State) : (awaitByte s).rxn = 1 := rfl
@[simp] theorem awaitByte_rxi (s : State) : (awaitByte s).rxi = s.rxi := rfl
@[simp] theorem awaitByte_pollcnt (s : State) : (awaitByte s).pollcnt = s.pollcnt := rfl
@[simp] theorem awaitByte_werr (s : State) : (awaitByte s).werr = s.werr := rfl
@[simp] theorem awaitByte_waitCnt (s : State) : (awaitByte s).waitCnt = 0#32 := rfl
@[simp] theorem awaitByte_abortReq (s : State) : (awaitByte s).abortReq = s.abortReq := rfl
@[simp] theorem awaitByte_dir (s : State) : (awaitByte s).dir = s.dir := rfl
@[simp] theorem awaitByte_rxq (s : State) : (awaitByte s).rxq = s.rxq := rfl
@[simp] theorem awaitByte_rst (s : State) : (awaitByte s).rst = s.rst := rfl
@[simp] theorem awaitByte_hostData (s : State) : (awaitByte s).hostData = s.hostData := rfl
@[simp] theorem awaitByte_bus (s : State) : (awaitByte s).bus = s.bus := rfl
@[simp] theorem awaitByte_events (s : State) : (awaitByte s).events = s.events := rfl
@[simp] theorem awaitByte_free (s : State) : (awaitByte s).free = s.free := rfl

/-! ### `receiveByte` -/

@[simp] theorem receiveByte_cfg (s : State) : (receiveByte s).cfg = s.cfg := rfl
@[simp] theorem receiveByte_bauddiv (s : State) : (receiveByte s).bauddiv = s.bauddiv := rfl
@[simp] theorem receiveByte_settle (s : State) : (receiveByte s).settle = s.settle := rfl
@[simp] theorem receiveByte_timeout (s : State) : (receiveByte s).timeout = s.timeout := rfl
@[simp] theorem receiveByte_pollLimit (s : State) : (receiveByte s).pollLimit = s.pollLimit := rfl
@[simp] theorem receiveByte_devId (s : State) : (receiveByte s).devId = s.devId := rfl
@[simp] theorem receiveByte_cmdId (s : State) : (receiveByte s).cmdId = s.cmdId := rfl
@[simp] theorem receiveByte_cmdAddr (s : State) : (receiveByte s).cmdAddr = s.cmdAddr := rfl
@[simp] theorem receiveByte_cmdCount (s : State) : (receiveByte s).cmdCount = s.cmdCount := rfl
@[simp] theorem receiveByte_cmdFlags (s : State) : (receiveByte s).cmdFlags = s.cmdFlags := rfl
@[simp] theorem receiveByte_val (s : State) : (receiveByte s).val = s.val := rfl
@[simp] theorem receiveByte_wdata (s : State) : (receiveByte s).wdata = s.wdata := rfl
@[simp] theorem receiveByte_op (s : State) : (receiveByte s).op = s.op := rfl
@[simp] theorem receiveByte_busy (s : State) : (receiveByte s).busy = s.busy := rfl
@[simp] theorem receiveByte_done (s : State) : (receiveByte s).done = s.done := rfl
@[simp] theorem receiveByte_malformed (s : State) : (receiveByte s).malformed = s.malformed := rfl
@[simp] theorem receiveByte_faultSeen (s : State) : (receiveByte s).faultSeen = s.faultSeen := rfl
@[simp] theorem receiveByte_ovr (s : State) : (receiveByte s).ovr = s.ovr := rfl
@[simp] theorem receiveByte_lbMismatch (s : State) : (receiveByte s).lbMismatch = s.lbMismatch := rfl
@[simp] theorem receiveByte_cc (s : State) : (receiveByte s).cc = s.cc := rfl
@[simp] theorem receiveByte_err (s : State) : (receiveByte s).err = s.err := rfl
@[simp] theorem receiveByte_rid (s : State) : (receiveByte s).rid = s.rid := rfl
@[simp] theorem receiveByte_rcount (s : State) : (receiveByte s).rcount = s.rcount := rfl
@[simp] theorem receiveByte_result (s : State) : (receiveByte s).result = s.result := rfl
@[simp] theorem receiveByte_rdata (s : State) : (receiveByte s).rdata = s.rdata := rfl
@[simp] theorem receiveByte_rxbuf (s : State) : (receiveByte s).rxbuf = s.rxbuf.setIfInBounds s.rxi (headRxq s) := rfl
@[simp] theorem receiveByte_txbuf (s : State) : (receiveByte s).txbuf = s.txbuf := rfl
@[simp] theorem receiveByte_pc (s : State) : (receiveByte s).pc = s.pc := rfl
@[simp] theorem receiveByte_sub (s : State) : (receiveByte s).sub = s.sub := rfl
@[simp] theorem receiveByte_tgt (s : State) : (receiveByte s).tgt = s.tgt := rfl
@[simp] theorem receiveByte_txn (s : State) : (receiveByte s).txn = s.txn := rfl
@[simp] theorem receiveByte_txi (s : State) : (receiveByte s).txi = s.txi := rfl
@[simp] theorem receiveByte_nexp (s : State) : (receiveByte s).nexp = s.nexp := rfl
@[simp] theorem receiveByte_rxn (s : State) : (receiveByte s).rxn = s.rxn := rfl
@[simp] theorem receiveByte_rxi (s : State) : (receiveByte s).rxi = s.rxi + 1 := rfl
@[simp] theorem receiveByte_pollcnt (s : State) : (receiveByte s).pollcnt = s.pollcnt := rfl
@[simp] theorem receiveByte_werr (s : State) : (receiveByte s).werr = s.werr := rfl
@[simp] theorem receiveByte_waitCnt (s : State) : (receiveByte s).waitCnt = 0#32 := rfl
@[simp] theorem receiveByte_abortReq (s : State) : (receiveByte s).abortReq = s.abortReq := rfl
@[simp] theorem receiveByte_dir (s : State) : (receiveByte s).dir = s.dir := rfl
@[simp] theorem receiveByte_rxq (s : State) : (receiveByte s).rxq = s.rxq.tail := rfl
@[simp] theorem receiveByte_rst (s : State) : (receiveByte s).rst = s.rst := rfl
@[simp] theorem receiveByte_hostData (s : State) : (receiveByte s).hostData = s.hostData := rfl
@[simp] theorem receiveByte_bus (s : State) : (receiveByte s).bus = s.bus := rfl
@[simp] theorem receiveByte_events (s : State) : (receiveByte s).events = s.events := rfl
@[simp] theorem receiveByte_free (s : State) : (receiveByte s).free = s.free := rfl

/-! ### `hostRead` -/

@[simp] theorem hostRead_cfg (r : BitVec 7) (s : State) : (hostRead r s).cfg = s.cfg := rfl
@[simp] theorem hostRead_bauddiv (r : BitVec 7) (s : State) : (hostRead r s).bauddiv = s.bauddiv := rfl
@[simp] theorem hostRead_settle (r : BitVec 7) (s : State) : (hostRead r s).settle = s.settle := rfl
@[simp] theorem hostRead_timeout (r : BitVec 7) (s : State) : (hostRead r s).timeout = s.timeout := rfl
@[simp] theorem hostRead_pollLimit (r : BitVec 7) (s : State) : (hostRead r s).pollLimit = s.pollLimit := rfl
@[simp] theorem hostRead_devId (r : BitVec 7) (s : State) : (hostRead r s).devId = s.devId := rfl
@[simp] theorem hostRead_cmdId (r : BitVec 7) (s : State) : (hostRead r s).cmdId = s.cmdId := rfl
@[simp] theorem hostRead_cmdAddr (r : BitVec 7) (s : State) : (hostRead r s).cmdAddr = s.cmdAddr := rfl
@[simp] theorem hostRead_cmdCount (r : BitVec 7) (s : State) : (hostRead r s).cmdCount = s.cmdCount := rfl
@[simp] theorem hostRead_cmdFlags (r : BitVec 7) (s : State) : (hostRead r s).cmdFlags = s.cmdFlags := rfl
@[simp] theorem hostRead_val (r : BitVec 7) (s : State) : (hostRead r s).val = s.val := rfl
@[simp] theorem hostRead_wdata (r : BitVec 7) (s : State) : (hostRead r s).wdata = s.wdata := rfl
@[simp] theorem hostRead_op (r : BitVec 7) (s : State) : (hostRead r s).op = s.op := rfl
@[simp] theorem hostRead_busy (r : BitVec 7) (s : State) : (hostRead r s).busy = s.busy := rfl
@[simp] theorem hostRead_done (r : BitVec 7) (s : State) : (hostRead r s).done = s.done := rfl
@[simp] theorem hostRead_malformed (r : BitVec 7) (s : State) : (hostRead r s).malformed = s.malformed := rfl
@[simp] theorem hostRead_faultSeen (r : BitVec 7) (s : State) : (hostRead r s).faultSeen = s.faultSeen := rfl
@[simp] theorem hostRead_ovr (r : BitVec 7) (s : State) : (hostRead r s).ovr = s.ovr := rfl
@[simp] theorem hostRead_lbMismatch (r : BitVec 7) (s : State) : (hostRead r s).lbMismatch = s.lbMismatch := rfl
@[simp] theorem hostRead_cc (r : BitVec 7) (s : State) : (hostRead r s).cc = s.cc := rfl
@[simp] theorem hostRead_err (r : BitVec 7) (s : State) : (hostRead r s).err = s.err := rfl
@[simp] theorem hostRead_rid (r : BitVec 7) (s : State) : (hostRead r s).rid = s.rid := rfl
@[simp] theorem hostRead_rcount (r : BitVec 7) (s : State) : (hostRead r s).rcount = s.rcount := rfl
@[simp] theorem hostRead_result (r : BitVec 7) (s : State) : (hostRead r s).result = s.result := rfl
@[simp] theorem hostRead_rdata (r : BitVec 7) (s : State) : (hostRead r s).rdata = s.rdata := rfl
@[simp] theorem hostRead_rxbuf (r : BitVec 7) (s : State) : (hostRead r s).rxbuf = s.rxbuf := rfl
@[simp] theorem hostRead_txbuf (r : BitVec 7) (s : State) : (hostRead r s).txbuf = s.txbuf := rfl
@[simp] theorem hostRead_pc (r : BitVec 7) (s : State) : (hostRead r s).pc = s.pc := rfl
@[simp] theorem hostRead_sub (r : BitVec 7) (s : State) : (hostRead r s).sub = s.sub := rfl
@[simp] theorem hostRead_tgt (r : BitVec 7) (s : State) : (hostRead r s).tgt = s.tgt := rfl
@[simp] theorem hostRead_txn (r : BitVec 7) (s : State) : (hostRead r s).txn = s.txn := rfl
@[simp] theorem hostRead_txi (r : BitVec 7) (s : State) : (hostRead r s).txi = s.txi := rfl
@[simp] theorem hostRead_nexp (r : BitVec 7) (s : State) : (hostRead r s).nexp = s.nexp := rfl
@[simp] theorem hostRead_rxn (r : BitVec 7) (s : State) : (hostRead r s).rxn = s.rxn := rfl
@[simp] theorem hostRead_rxi (r : BitVec 7) (s : State) : (hostRead r s).rxi = s.rxi := rfl
@[simp] theorem hostRead_pollcnt (r : BitVec 7) (s : State) : (hostRead r s).pollcnt = s.pollcnt := rfl
@[simp] theorem hostRead_werr (r : BitVec 7) (s : State) : (hostRead r s).werr = s.werr := rfl
@[simp] theorem hostRead_waitCnt (r : BitVec 7) (s : State) : (hostRead r s).waitCnt = s.waitCnt := rfl
@[simp] theorem hostRead_abortReq (r : BitVec 7) (s : State) : (hostRead r s).abortReq = s.abortReq := rfl
@[simp] theorem hostRead_dir (r : BitVec 7) (s : State) : (hostRead r s).dir = s.dir := rfl
@[simp] theorem hostRead_rxq (r : BitVec 7) (s : State) : (hostRead r s).rxq = s.rxq := rfl
@[simp] theorem hostRead_rst (r : BitVec 7) (s : State) : (hostRead r s).rst = s.rst := rfl
@[simp] theorem hostRead_hostData (r : BitVec 7) (s : State) : (hostRead r s).hostData = readReg r s := rfl
@[simp] theorem hostRead_bus (r : BitVec 7) (s : State) : (hostRead r s).bus = s.bus := rfl
@[simp] theorem hostRead_events (r : BitVec 7) (s : State) : (hostRead r s).events = s.events := rfl
@[simp] theorem hostRead_free (r : BitVec 7) (s : State) : (hostRead r s).free = s.free := rfl

/-! ### `takeWire` -/

@[simp] theorem takeWire_cfg (rest : List Byte) (s : State) : (takeWire rest s).cfg = s.cfg := rfl
@[simp] theorem takeWire_bauddiv (rest : List Byte) (s : State) : (takeWire rest s).bauddiv = s.bauddiv := rfl
@[simp] theorem takeWire_settle (rest : List Byte) (s : State) : (takeWire rest s).settle = s.settle := rfl
@[simp] theorem takeWire_timeout (rest : List Byte) (s : State) : (takeWire rest s).timeout = s.timeout := rfl
@[simp] theorem takeWire_pollLimit (rest : List Byte) (s : State) : (takeWire rest s).pollLimit = s.pollLimit := rfl
@[simp] theorem takeWire_devId (rest : List Byte) (s : State) : (takeWire rest s).devId = s.devId := rfl
@[simp] theorem takeWire_cmdId (rest : List Byte) (s : State) : (takeWire rest s).cmdId = s.cmdId := rfl
@[simp] theorem takeWire_cmdAddr (rest : List Byte) (s : State) : (takeWire rest s).cmdAddr = s.cmdAddr := rfl
@[simp] theorem takeWire_cmdCount (rest : List Byte) (s : State) : (takeWire rest s).cmdCount = s.cmdCount := rfl
@[simp] theorem takeWire_cmdFlags (rest : List Byte) (s : State) : (takeWire rest s).cmdFlags = s.cmdFlags := rfl
@[simp] theorem takeWire_val (rest : List Byte) (s : State) : (takeWire rest s).val = s.val := rfl
@[simp] theorem takeWire_wdata (rest : List Byte) (s : State) : (takeWire rest s).wdata = s.wdata := rfl
@[simp] theorem takeWire_op (rest : List Byte) (s : State) : (takeWire rest s).op = s.op := rfl
@[simp] theorem takeWire_busy (rest : List Byte) (s : State) : (takeWire rest s).busy = s.busy := rfl
@[simp] theorem takeWire_done (rest : List Byte) (s : State) : (takeWire rest s).done = s.done := rfl
@[simp] theorem takeWire_malformed (rest : List Byte) (s : State) : (takeWire rest s).malformed = s.malformed := rfl
@[simp] theorem takeWire_faultSeen (rest : List Byte) (s : State) : (takeWire rest s).faultSeen = s.faultSeen := rfl
@[simp] theorem takeWire_ovr (rest : List Byte) (s : State) : (takeWire rest s).ovr = s.ovr := rfl
@[simp] theorem takeWire_lbMismatch (rest : List Byte) (s : State) :
    (takeWire rest s).lbMismatch = s.lbMismatch := rfl
@[simp] theorem takeWire_cc (rest : List Byte) (s : State) : (takeWire rest s).cc = s.cc := rfl
@[simp] theorem takeWire_err (rest : List Byte) (s : State) : (takeWire rest s).err = s.err := rfl
@[simp] theorem takeWire_rid (rest : List Byte) (s : State) : (takeWire rest s).rid = s.rid := rfl
@[simp] theorem takeWire_rcount (rest : List Byte) (s : State) : (takeWire rest s).rcount = s.rcount := rfl
@[simp] theorem takeWire_result (rest : List Byte) (s : State) : (takeWire rest s).result = s.result := rfl
@[simp] theorem takeWire_rdata (rest : List Byte) (s : State) : (takeWire rest s).rdata = s.rdata := rfl
@[simp] theorem takeWire_rxbuf (rest : List Byte) (s : State) : (takeWire rest s).rxbuf = s.rxbuf := rfl
@[simp] theorem takeWire_txbuf (rest : List Byte) (s : State) : (takeWire rest s).txbuf = s.txbuf := rfl
@[simp] theorem takeWire_pc (rest : List Byte) (s : State) : (takeWire rest s).pc = s.pc := rfl
@[simp] theorem takeWire_sub (rest : List Byte) (s : State) : (takeWire rest s).sub = s.sub := rfl
@[simp] theorem takeWire_tgt (rest : List Byte) (s : State) : (takeWire rest s).tgt = s.tgt := rfl
@[simp] theorem takeWire_txn (rest : List Byte) (s : State) : (takeWire rest s).txn = s.txn := rfl
@[simp] theorem takeWire_txi (rest : List Byte) (s : State) : (takeWire rest s).txi = s.txi := rfl
@[simp] theorem takeWire_nexp (rest : List Byte) (s : State) : (takeWire rest s).nexp = s.nexp := rfl
@[simp] theorem takeWire_rxn (rest : List Byte) (s : State) : (takeWire rest s).rxn = s.rxn := rfl
@[simp] theorem takeWire_rxi (rest : List Byte) (s : State) : (takeWire rest s).rxi = s.rxi := rfl
@[simp] theorem takeWire_pollcnt (rest : List Byte) (s : State) : (takeWire rest s).pollcnt = s.pollcnt := rfl
@[simp] theorem takeWire_werr (rest : List Byte) (s : State) : (takeWire rest s).werr = s.werr := rfl
@[simp] theorem takeWire_waitCnt (rest : List Byte) (s : State) : (takeWire rest s).waitCnt = s.waitCnt := rfl
@[simp] theorem takeWire_abortReq (rest : List Byte) (s : State) : (takeWire rest s).abortReq = s.abortReq := rfl
@[simp] theorem takeWire_dir (rest : List Byte) (s : State) : (takeWire rest s).dir = s.dir := rfl
@[simp] theorem takeWire_rxq (rest : List Byte) (s : State) : (takeWire rest s).rxq = s.rxq := rfl
@[simp] theorem takeWire_rst (rest : List Byte) (s : State) : (takeWire rest s).rst = s.rst := rfl
@[simp] theorem takeWire_hostData (rest : List Byte) (s : State) : (takeWire rest s).hostData = s.hostData := rfl
@[simp] theorem takeWire_bus (rest : List Byte) (s : State) :
    (takeWire rest s).bus = { s.bus with wire := rest } := rfl
@[simp] theorem takeWire_events (rest : List Byte) (s : State) : (takeWire rest s).events = s.events := rfl
@[simp] theorem takeWire_free (rest : List Byte) (s : State) : (takeWire rest s).free = s.free := rfl

/-! ### `loseBytes` -/

@[simp] theorem loseBytes_cfg (s : State) : (loseBytes s).cfg = s.cfg := rfl
@[simp] theorem loseBytes_bauddiv (s : State) : (loseBytes s).bauddiv = s.bauddiv := rfl
@[simp] theorem loseBytes_settle (s : State) : (loseBytes s).settle = s.settle := rfl
@[simp] theorem loseBytes_timeout (s : State) : (loseBytes s).timeout = s.timeout := rfl
@[simp] theorem loseBytes_pollLimit (s : State) : (loseBytes s).pollLimit = s.pollLimit := rfl
@[simp] theorem loseBytes_devId (s : State) : (loseBytes s).devId = s.devId := rfl
@[simp] theorem loseBytes_cmdId (s : State) : (loseBytes s).cmdId = s.cmdId := rfl
@[simp] theorem loseBytes_cmdAddr (s : State) : (loseBytes s).cmdAddr = s.cmdAddr := rfl
@[simp] theorem loseBytes_cmdCount (s : State) : (loseBytes s).cmdCount = s.cmdCount := rfl
@[simp] theorem loseBytes_cmdFlags (s : State) : (loseBytes s).cmdFlags = s.cmdFlags := rfl
@[simp] theorem loseBytes_val (s : State) : (loseBytes s).val = s.val := rfl
@[simp] theorem loseBytes_wdata (s : State) : (loseBytes s).wdata = s.wdata := rfl
@[simp] theorem loseBytes_op (s : State) : (loseBytes s).op = s.op := rfl
@[simp] theorem loseBytes_busy (s : State) : (loseBytes s).busy = s.busy := rfl
@[simp] theorem loseBytes_done (s : State) : (loseBytes s).done = s.done := rfl
@[simp] theorem loseBytes_malformed (s : State) : (loseBytes s).malformed = s.malformed := rfl
@[simp] theorem loseBytes_faultSeen (s : State) : (loseBytes s).faultSeen = s.faultSeen := rfl
@[simp] theorem loseBytes_ovr (s : State) : (loseBytes s).ovr = s.ovr := rfl
@[simp] theorem loseBytes_lbMismatch (s : State) : (loseBytes s).lbMismatch = s.lbMismatch := rfl
@[simp] theorem loseBytes_cc (s : State) : (loseBytes s).cc = s.cc := rfl
@[simp] theorem loseBytes_err (s : State) : (loseBytes s).err = s.err := rfl
@[simp] theorem loseBytes_rid (s : State) : (loseBytes s).rid = s.rid := rfl
@[simp] theorem loseBytes_rcount (s : State) : (loseBytes s).rcount = s.rcount := rfl
@[simp] theorem loseBytes_result (s : State) : (loseBytes s).result = s.result := rfl
@[simp] theorem loseBytes_rdata (s : State) : (loseBytes s).rdata = s.rdata := rfl
@[simp] theorem loseBytes_rxbuf (s : State) : (loseBytes s).rxbuf = s.rxbuf := rfl
@[simp] theorem loseBytes_txbuf (s : State) : (loseBytes s).txbuf = s.txbuf := rfl
@[simp] theorem loseBytes_pc (s : State) : (loseBytes s).pc = s.pc := rfl
@[simp] theorem loseBytes_sub (s : State) : (loseBytes s).sub = s.sub := rfl
@[simp] theorem loseBytes_tgt (s : State) : (loseBytes s).tgt = s.tgt := rfl
@[simp] theorem loseBytes_txn (s : State) : (loseBytes s).txn = s.txn := rfl
@[simp] theorem loseBytes_txi (s : State) : (loseBytes s).txi = s.txi := rfl
@[simp] theorem loseBytes_nexp (s : State) : (loseBytes s).nexp = s.nexp := rfl
@[simp] theorem loseBytes_rxn (s : State) : (loseBytes s).rxn = s.rxn := rfl
@[simp] theorem loseBytes_rxi (s : State) : (loseBytes s).rxi = s.rxi := rfl
@[simp] theorem loseBytes_pollcnt (s : State) : (loseBytes s).pollcnt = s.pollcnt := rfl
@[simp] theorem loseBytes_werr (s : State) : (loseBytes s).werr = s.werr := rfl
@[simp] theorem loseBytes_waitCnt (s : State) : (loseBytes s).waitCnt = s.waitCnt := rfl
@[simp] theorem loseBytes_abortReq (s : State) : (loseBytes s).abortReq = s.abortReq := rfl
@[simp] theorem loseBytes_dir (s : State) : (loseBytes s).dir = s.dir := rfl
@[simp] theorem loseBytes_rxq (s : State) : (loseBytes s).rxq = s.rxq := rfl
@[simp] theorem loseBytes_rst (s : State) : (loseBytes s).rst = s.rst := rfl
@[simp] theorem loseBytes_hostData (s : State) : (loseBytes s).hostData = s.hostData := rfl
@[simp] theorem loseBytes_bus (s : State) :
    (loseBytes s).bus = { s.bus with wire := s.bus.wire.drop (Config.lostBytes s.free + 1) } := rfl
@[simp] theorem loseBytes_events (s : State) : (loseBytes s).events = s.events := rfl
@[simp] theorem loseBytes_free (s : State) : (loseBytes s).free = s.free + 1 := rfl

/-! ### `passTicks` -/

@[simp] theorem passTicks_cfg (n : Nat) (s : State) : (passTicks n s).cfg = s.cfg := rfl
@[simp] theorem passTicks_bauddiv (n : Nat) (s : State) : (passTicks n s).bauddiv = s.bauddiv := rfl
@[simp] theorem passTicks_settle (n : Nat) (s : State) : (passTicks n s).settle = s.settle := rfl
@[simp] theorem passTicks_timeout (n : Nat) (s : State) : (passTicks n s).timeout = s.timeout := rfl
@[simp] theorem passTicks_pollLimit (n : Nat) (s : State) : (passTicks n s).pollLimit = s.pollLimit := rfl
@[simp] theorem passTicks_devId (n : Nat) (s : State) : (passTicks n s).devId = s.devId := rfl
@[simp] theorem passTicks_cmdId (n : Nat) (s : State) : (passTicks n s).cmdId = s.cmdId := rfl
@[simp] theorem passTicks_cmdAddr (n : Nat) (s : State) : (passTicks n s).cmdAddr = s.cmdAddr := rfl
@[simp] theorem passTicks_cmdCount (n : Nat) (s : State) : (passTicks n s).cmdCount = s.cmdCount := rfl
@[simp] theorem passTicks_cmdFlags (n : Nat) (s : State) : (passTicks n s).cmdFlags = s.cmdFlags := rfl
@[simp] theorem passTicks_val (n : Nat) (s : State) : (passTicks n s).val = s.val := rfl
@[simp] theorem passTicks_wdata (n : Nat) (s : State) : (passTicks n s).wdata = s.wdata := rfl
@[simp] theorem passTicks_op (n : Nat) (s : State) : (passTicks n s).op = s.op := rfl
@[simp] theorem passTicks_busy (n : Nat) (s : State) : (passTicks n s).busy = s.busy := rfl
@[simp] theorem passTicks_done (n : Nat) (s : State) : (passTicks n s).done = s.done := rfl
@[simp] theorem passTicks_malformed (n : Nat) (s : State) : (passTicks n s).malformed = s.malformed := rfl
@[simp] theorem passTicks_faultSeen (n : Nat) (s : State) : (passTicks n s).faultSeen = s.faultSeen := rfl
@[simp] theorem passTicks_ovr (n : Nat) (s : State) : (passTicks n s).ovr = s.ovr := rfl
@[simp] theorem passTicks_lbMismatch (n : Nat) (s : State) : (passTicks n s).lbMismatch = s.lbMismatch := rfl
@[simp] theorem passTicks_cc (n : Nat) (s : State) : (passTicks n s).cc = s.cc := rfl
@[simp] theorem passTicks_err (n : Nat) (s : State) : (passTicks n s).err = s.err := rfl
@[simp] theorem passTicks_rid (n : Nat) (s : State) : (passTicks n s).rid = s.rid := rfl
@[simp] theorem passTicks_rcount (n : Nat) (s : State) : (passTicks n s).rcount = s.rcount := rfl
@[simp] theorem passTicks_result (n : Nat) (s : State) : (passTicks n s).result = s.result := rfl
@[simp] theorem passTicks_rdata (n : Nat) (s : State) : (passTicks n s).rdata = s.rdata := rfl
@[simp] theorem passTicks_rxbuf (n : Nat) (s : State) : (passTicks n s).rxbuf = s.rxbuf := rfl
@[simp] theorem passTicks_txbuf (n : Nat) (s : State) : (passTicks n s).txbuf = s.txbuf := rfl
@[simp] theorem passTicks_pc (n : Nat) (s : State) : (passTicks n s).pc = s.pc := rfl
@[simp] theorem passTicks_sub (n : Nat) (s : State) : (passTicks n s).sub = s.sub := rfl
@[simp] theorem passTicks_tgt (n : Nat) (s : State) : (passTicks n s).tgt = s.tgt := rfl
@[simp] theorem passTicks_txn (n : Nat) (s : State) : (passTicks n s).txn = s.txn := rfl
@[simp] theorem passTicks_txi (n : Nat) (s : State) : (passTicks n s).txi = s.txi := rfl
@[simp] theorem passTicks_nexp (n : Nat) (s : State) : (passTicks n s).nexp = s.nexp := rfl
@[simp] theorem passTicks_rxn (n : Nat) (s : State) : (passTicks n s).rxn = s.rxn := rfl
@[simp] theorem passTicks_rxi (n : Nat) (s : State) : (passTicks n s).rxi = s.rxi := rfl
@[simp] theorem passTicks_pollcnt (n : Nat) (s : State) : (passTicks n s).pollcnt = s.pollcnt := rfl
@[simp] theorem passTicks_werr (n : Nat) (s : State) : (passTicks n s).werr = s.werr := rfl
@[simp] theorem passTicks_waitCnt (n : Nat) (s : State) :
    (passTicks n s).waitCnt = if waiting s then addTicks s.waitCnt n else s.waitCnt := rfl
@[simp] theorem passTicks_abortReq (n : Nat) (s : State) : (passTicks n s).abortReq = s.abortReq := rfl
@[simp] theorem passTicks_dir (n : Nat) (s : State) : (passTicks n s).dir = s.dir := rfl
@[simp] theorem passTicks_rxq (n : Nat) (s : State) : (passTicks n s).rxq = s.rxq := rfl
@[simp] theorem passTicks_rst (n : Nat) (s : State) : (passTicks n s).rst = s.rst := rfl
@[simp] theorem passTicks_hostData (n : Nat) (s : State) : (passTicks n s).hostData = s.hostData := rfl
@[simp] theorem passTicks_bus (n : Nat) (s : State) : (passTicks n s).bus = s.bus := rfl
@[simp] theorem passTicks_events (n : Nat) (s : State) : (passTicks n s).events = s.events := rfl
@[simp] theorem passTicks_free (n : Nat) (s : State) : (passTicks n s).free = s.free := rfl

/-! ### `settleBus` -/

@[simp] theorem settleBus_cfg (as : List Actuator) (r : List Byte) (n : Nat) (s : State) :
    (settleBus as r n s).cfg = s.cfg := rfl
@[simp] theorem settleBus_bauddiv (as : List Actuator) (r : List Byte) (n : Nat) (s : State) :
    (settleBus as r n s).bauddiv = s.bauddiv := rfl
@[simp] theorem settleBus_settle (as : List Actuator) (r : List Byte) (n : Nat) (s : State) :
    (settleBus as r n s).settle = s.settle := rfl
@[simp] theorem settleBus_timeout (as : List Actuator) (r : List Byte) (n : Nat) (s : State) :
    (settleBus as r n s).timeout = s.timeout := rfl
@[simp] theorem settleBus_pollLimit (as : List Actuator) (r : List Byte) (n : Nat) (s : State) :
    (settleBus as r n s).pollLimit = s.pollLimit := rfl
@[simp] theorem settleBus_devId (as : List Actuator) (r : List Byte) (n : Nat) (s : State) :
    (settleBus as r n s).devId = s.devId := rfl
@[simp] theorem settleBus_cmdId (as : List Actuator) (r : List Byte) (n : Nat) (s : State) :
    (settleBus as r n s).cmdId = s.cmdId := rfl
@[simp] theorem settleBus_cmdAddr (as : List Actuator) (r : List Byte) (n : Nat) (s : State) :
    (settleBus as r n s).cmdAddr = s.cmdAddr := rfl
@[simp] theorem settleBus_cmdCount (as : List Actuator) (r : List Byte) (n : Nat) (s : State) :
    (settleBus as r n s).cmdCount = s.cmdCount := rfl
@[simp] theorem settleBus_cmdFlags (as : List Actuator) (r : List Byte) (n : Nat) (s : State) :
    (settleBus as r n s).cmdFlags = s.cmdFlags := rfl
@[simp] theorem settleBus_val (as : List Actuator) (r : List Byte) (n : Nat) (s : State) :
    (settleBus as r n s).val = s.val := rfl
@[simp] theorem settleBus_wdata (as : List Actuator) (r : List Byte) (n : Nat) (s : State) :
    (settleBus as r n s).wdata = s.wdata := rfl
@[simp] theorem settleBus_op (as : List Actuator) (r : List Byte) (n : Nat) (s : State) :
    (settleBus as r n s).op = s.op := rfl
@[simp] theorem settleBus_busy (as : List Actuator) (r : List Byte) (n : Nat) (s : State) :
    (settleBus as r n s).busy = s.busy := rfl
@[simp] theorem settleBus_done (as : List Actuator) (r : List Byte) (n : Nat) (s : State) :
    (settleBus as r n s).done = s.done := rfl
@[simp] theorem settleBus_malformed (as : List Actuator) (r : List Byte) (n : Nat) (s : State) :
    (settleBus as r n s).malformed = s.malformed := rfl
@[simp] theorem settleBus_faultSeen (as : List Actuator) (r : List Byte) (n : Nat) (s : State) :
    (settleBus as r n s).faultSeen = s.faultSeen := rfl
@[simp] theorem settleBus_ovr (as : List Actuator) (r : List Byte) (n : Nat) (s : State) :
    (settleBus as r n s).ovr = s.ovr := rfl
@[simp] theorem settleBus_lbMismatch (as : List Actuator) (r : List Byte) (n : Nat) (s : State) :
    (settleBus as r n s).lbMismatch = s.lbMismatch := rfl
@[simp] theorem settleBus_cc (as : List Actuator) (r : List Byte) (n : Nat) (s : State) :
    (settleBus as r n s).cc = s.cc := rfl
@[simp] theorem settleBus_err (as : List Actuator) (r : List Byte) (n : Nat) (s : State) :
    (settleBus as r n s).err = s.err := rfl
@[simp] theorem settleBus_rid (as : List Actuator) (r : List Byte) (n : Nat) (s : State) :
    (settleBus as r n s).rid = s.rid := rfl
@[simp] theorem settleBus_rcount (as : List Actuator) (r : List Byte) (n : Nat) (s : State) :
    (settleBus as r n s).rcount = s.rcount := rfl
@[simp] theorem settleBus_result (as : List Actuator) (r : List Byte) (n : Nat) (s : State) :
    (settleBus as r n s).result = s.result := rfl
@[simp] theorem settleBus_rdata (as : List Actuator) (r : List Byte) (n : Nat) (s : State) :
    (settleBus as r n s).rdata = s.rdata := rfl
@[simp] theorem settleBus_rxbuf (as : List Actuator) (r : List Byte) (n : Nat) (s : State) :
    (settleBus as r n s).rxbuf = s.rxbuf := rfl
@[simp] theorem settleBus_txbuf (as : List Actuator) (r : List Byte) (n : Nat) (s : State) :
    (settleBus as r n s).txbuf = s.txbuf := rfl
@[simp] theorem settleBus_pc (as : List Actuator) (r : List Byte) (n : Nat) (s : State) :
    (settleBus as r n s).pc = s.pc := rfl
@[simp] theorem settleBus_sub (as : List Actuator) (r : List Byte) (n : Nat) (s : State) :
    (settleBus as r n s).sub = s.sub := rfl
@[simp] theorem settleBus_tgt (as : List Actuator) (r : List Byte) (n : Nat) (s : State) :
    (settleBus as r n s).tgt = s.tgt := rfl
@[simp] theorem settleBus_txn (as : List Actuator) (r : List Byte) (n : Nat) (s : State) :
    (settleBus as r n s).txn = s.txn := rfl
@[simp] theorem settleBus_txi (as : List Actuator) (r : List Byte) (n : Nat) (s : State) :
    (settleBus as r n s).txi = s.txi := rfl
@[simp] theorem settleBus_nexp (as : List Actuator) (r : List Byte) (n : Nat) (s : State) :
    (settleBus as r n s).nexp = s.nexp := rfl
@[simp] theorem settleBus_rxn (as : List Actuator) (r : List Byte) (n : Nat) (s : State) :
    (settleBus as r n s).rxn = s.rxn := rfl
@[simp] theorem settleBus_rxi (as : List Actuator) (r : List Byte) (n : Nat) (s : State) :
    (settleBus as r n s).rxi = s.rxi := rfl
@[simp] theorem settleBus_pollcnt (as : List Actuator) (r : List Byte) (n : Nat) (s : State) :
    (settleBus as r n s).pollcnt = s.pollcnt := rfl
@[simp] theorem settleBus_werr (as : List Actuator) (r : List Byte) (n : Nat) (s : State) :
    (settleBus as r n s).werr = s.werr := rfl
@[simp] theorem settleBus_waitCnt (as : List Actuator) (r : List Byte) (n : Nat) (s : State) :
    (settleBus as r n s).waitCnt = s.waitCnt := rfl
@[simp] theorem settleBus_abortReq (as : List Actuator) (r : List Byte) (n : Nat) (s : State) :
    (settleBus as r n s).abortReq = s.abortReq := rfl
@[simp] theorem settleBus_dir (as : List Actuator) (r : List Byte) (n : Nat) (s : State) :
    (settleBus as r n s).dir = s.dir := rfl
@[simp] theorem settleBus_rxq (as : List Actuator) (r : List Byte) (n : Nat) (s : State) :
    (settleBus as r n s).rxq = s.rxq := rfl
@[simp] theorem settleBus_rst (as : List Actuator) (r : List Byte) (n : Nat) (s : State) :
    (settleBus as r n s).rst = s.rst := rfl
@[simp] theorem settleBus_hostData (as : List Actuator) (r : List Byte) (n : Nat) (s : State) :
    (settleBus as r n s).hostData = s.hostData := rfl
@[simp] theorem settleBus_bus (as : List Actuator) (r : List Byte) (n : Nat) (s : State) :
    (settleBus as r n s).bus = { s.bus with actuators := as, reply := s.bus.reply ++ r } := rfl
@[simp] theorem settleBus_events (as : List Actuator) (r : List Byte) (n : Nat) (s : State) :
    (settleBus as r n s).events = s.events := rfl
@[simp] theorem settleBus_free (as : List Actuator) (r : List Byte) (n : Nat) (s : State) :
    (settleBus as r n s).free = s.free + n := rfl

/-! ### `popEvent` -/

@[simp] theorem popEvent_cfg (s : State) : (popEvent s).cfg = s.cfg := rfl
@[simp] theorem popEvent_bauddiv (s : State) : (popEvent s).bauddiv = s.bauddiv := rfl
@[simp] theorem popEvent_settle (s : State) : (popEvent s).settle = s.settle := rfl
@[simp] theorem popEvent_timeout (s : State) : (popEvent s).timeout = s.timeout := rfl
@[simp] theorem popEvent_pollLimit (s : State) : (popEvent s).pollLimit = s.pollLimit := rfl
@[simp] theorem popEvent_devId (s : State) : (popEvent s).devId = s.devId := rfl
@[simp] theorem popEvent_cmdId (s : State) : (popEvent s).cmdId = s.cmdId := rfl
@[simp] theorem popEvent_cmdAddr (s : State) : (popEvent s).cmdAddr = s.cmdAddr := rfl
@[simp] theorem popEvent_cmdCount (s : State) : (popEvent s).cmdCount = s.cmdCount := rfl
@[simp] theorem popEvent_cmdFlags (s : State) : (popEvent s).cmdFlags = s.cmdFlags := rfl
@[simp] theorem popEvent_val (s : State) : (popEvent s).val = s.val := rfl
@[simp] theorem popEvent_wdata (s : State) : (popEvent s).wdata = s.wdata := rfl
@[simp] theorem popEvent_op (s : State) : (popEvent s).op = s.op := rfl
@[simp] theorem popEvent_busy (s : State) : (popEvent s).busy = s.busy := rfl
@[simp] theorem popEvent_done (s : State) : (popEvent s).done = s.done := rfl
@[simp] theorem popEvent_malformed (s : State) : (popEvent s).malformed = s.malformed := rfl
@[simp] theorem popEvent_faultSeen (s : State) : (popEvent s).faultSeen = s.faultSeen := rfl
@[simp] theorem popEvent_ovr (s : State) : (popEvent s).ovr = s.ovr := rfl
@[simp] theorem popEvent_lbMismatch (s : State) : (popEvent s).lbMismatch = s.lbMismatch := rfl
@[simp] theorem popEvent_cc (s : State) : (popEvent s).cc = s.cc := rfl
@[simp] theorem popEvent_err (s : State) : (popEvent s).err = s.err := rfl
@[simp] theorem popEvent_rid (s : State) : (popEvent s).rid = s.rid := rfl
@[simp] theorem popEvent_rcount (s : State) : (popEvent s).rcount = s.rcount := rfl
@[simp] theorem popEvent_result (s : State) : (popEvent s).result = s.result := rfl
@[simp] theorem popEvent_rdata (s : State) : (popEvent s).rdata = s.rdata := rfl
@[simp] theorem popEvent_rxbuf (s : State) : (popEvent s).rxbuf = s.rxbuf := rfl
@[simp] theorem popEvent_txbuf (s : State) : (popEvent s).txbuf = s.txbuf := rfl
@[simp] theorem popEvent_pc (s : State) : (popEvent s).pc = s.pc := rfl
@[simp] theorem popEvent_sub (s : State) : (popEvent s).sub = s.sub := rfl
@[simp] theorem popEvent_tgt (s : State) : (popEvent s).tgt = s.tgt := rfl
@[simp] theorem popEvent_txn (s : State) : (popEvent s).txn = s.txn := rfl
@[simp] theorem popEvent_txi (s : State) : (popEvent s).txi = s.txi := rfl
@[simp] theorem popEvent_nexp (s : State) : (popEvent s).nexp = s.nexp := rfl
@[simp] theorem popEvent_rxn (s : State) : (popEvent s).rxn = s.rxn := rfl
@[simp] theorem popEvent_rxi (s : State) : (popEvent s).rxi = s.rxi := rfl
@[simp] theorem popEvent_pollcnt (s : State) : (popEvent s).pollcnt = s.pollcnt := rfl
@[simp] theorem popEvent_werr (s : State) : (popEvent s).werr = s.werr := rfl
@[simp] theorem popEvent_waitCnt (s : State) : (popEvent s).waitCnt = s.waitCnt := rfl
@[simp] theorem popEvent_abortReq (s : State) : (popEvent s).abortReq = s.abortReq := rfl
@[simp] theorem popEvent_dir (s : State) : (popEvent s).dir = s.dir := rfl
@[simp] theorem popEvent_rxq (s : State) : (popEvent s).rxq = s.rxq := rfl
@[simp] theorem popEvent_rst (s : State) : (popEvent s).rst = s.rst := rfl
@[simp] theorem popEvent_hostData (s : State) : (popEvent s).hostData = s.hostData := rfl
@[simp] theorem popEvent_bus (s : State) : (popEvent s).bus = s.bus := rfl
@[simp] theorem popEvent_events (s : State) : (popEvent s).events = s.events.tail := rfl
@[simp] theorem popEvent_free (s : State) : (popEvent s).free = s.free := rfl

end Sys2Proof.Machine
end

