-- ==== Sys2Proof/Laws/Ops.lean ====
section
/-! SUPPORT. One lemma for each shared operation, saying all it can do. -/

namespace Sys2Proof.Machine

/-! ### Byte buffers -/

/-- Storing bytes from index `i` upward: the bytes there, and every other place as before. -/
theorem byteAt_fill {n : Nat} (v : Vector Byte n) (i : Nat) (bs : List Byte) (k : Nat) :
    byteAt (fill v i bs) k = if i ≤ k ∧ k < i + bs.length ∧ k < n then bs.getD (k - i) 0#8 else byteAt v k := by
  induction bs generalizing v i with
  | nil => simp [fill]; omega
  | cons b bs ih =>
    simp only [fill, ih, List.length_cons]
    by_cases hk : k = i
    · subst hk
      by_cases hn : k < n <;> simp [byteAt, hn]
    · by_cases h : i + 1 ≤ k ∧ k < i + 1 + bs.length ∧ k < n
      · have h' : i ≤ k ∧ k < i + (bs.length + 1) ∧ k < n := by omega
        obtain ⟨d, hd⟩ : ∃ d, k - i = d + 1 := ⟨k - i - 1, by omega⟩
        simp [h, h', hd, show k - (i + 1) = d by omega]
      · have h' : ¬(i ≤ k ∧ k < i + (bs.length + 1) ∧ k < n) := by omega
        rw [if_neg h, if_neg h']
        simp [byteAt, Ne.symm hk]

/-! ### Acceptance -/

/-- A write of `OP` while an operation runs is ignored (R11, R25). -/
theorem accept_busy (op : Byte) (checks : State → List (Bool × Completion)) (run : State → State) (s : State)
    (h : s.busy = true) : accept op checks run s = .next s := by simp [accept, h]

/-- The first failing check ends the operation in the same step (R140). -/
theorem accept_refused (op : Byte) (checks : State → List (Bool × Completion)) (run : State → State) (s : State)
    (c : Completion) (h : s.busy = false) (hc : firstFail (checks (beginOp op s)) = some c) :
    accept op checks run s = .next (complete c (beginOp op s)) := by simp [accept, h, hc]

/-- With no failing check the operation's own rule runs (R140). -/
theorem accept_runs (op : Byte) (checks : State → List (Bool × Completion)) (run : State → State) (s : State)
    (h : s.busy = false) (hc : firstFail (checks (beginOp op s)) = none) :
    accept op checks run s = .next (run (beginOp op s)) := by simp [accept, h, hc]

/-- All that a write of `OP` can do: it never faults and is never refused by the model. -/
theorem accept_cases (op : Byte) (checks : State → List (Bool × Completion)) (run : State → State) (s : State) :
    (s.busy = true ∧ accept op checks run s = .next s) ∨
    (∃ c, s.busy = false ∧ firstFail (checks (beginOp op s)) = some c ∧
      accept op checks run s = .next (complete c (beginOp op s))) ∨
    (s.busy = false ∧ firstFail (checks (beginOp op s)) = none ∧
      accept op checks run s = .next (run (beginOp op s))) := by
  cases hb : s.busy with
  | true => exact .inl ⟨rfl, accept_busy op checks run s hb⟩
  | false =>
    cases hc : firstFail (checks (beginOp op s)) with
    | some c => exact .inr (.inl ⟨c, rfl, rfl, accept_refused op checks run s c hb hc⟩)
    | none => exact .inr (.inr ⟨rfl, rfl, accept_runs op checks run s hb hc⟩)

/-- A failing check decides (R194). -/
@[simp] theorem firstFail_true (c : Completion) (l : List (Bool × Completion)) :
    firstFail ((true, c) :: l) = some c := rfl

/-- A check that does not fail leaves the decision to those after it (R194). -/
@[simp] theorem firstFail_false (c : Completion) (l : List (Bool × Completion)) :
    firstFail ((false, c) :: l) = firstFail l := rfl

/-- The code reported is that of a check that fails. -/
theorem firstFail_mem {l : List (Bool × Completion)} {c : Completion} (h : firstFail l = some c) :
    (true, c) ∈ l := by
  induction l with
  | nil => simp [firstFail] at h
  | cons x l ih =>
    obtain ⟨b, d⟩ := x
    cases b with
    | true => simp [firstFail] at h; simp [h]
    | false => simp [firstFail] at h; simp [ih h]

/-- No check fails exactly when each holds back. -/
theorem firstFail_eq_none {l : List (Bool × Completion)} : firstFail l = none ↔ ∀ p ∈ l, p.1 = false := by
  induction l with
  | nil => simp [firstFail]
  | cons x l ih =>
    obtain ⟨b, d⟩ := x
    cases b <;> simp [firstFail, ih]

/-! ### The queue -/

/-- A byte on the line enters the queue, is dropped with `OVR`, or is not heard (R91, R92). -/
theorem capture_cases (b : Byte) (s : State) :
    (listening s = true ∧ s.rxq.length < 32 ∧ capture b s = { s with rxq := s.rxq ++ [b] }) ∨
    (listening s = true ∧ 32 ≤ s.rxq.length ∧ capture b s = { s with ovr := true }) ∨
    (listening s = false ∧ capture b s = s) := by
  cases hl : listening s with
  | false => exact .inr (.inr ⟨rfl, by simp [capture, hl]⟩)
  | true =>
    by_cases hq : s.rxq.length < 32
    · exact .inl ⟨rfl, hq, by simp [capture, hl, Config.rxqDepth, hq, Nat.not_le_of_lt hq]⟩
    · exact .inr (.inl ⟨rfl, by omega, by simp [capture, hl, Config.rxqDepth, hq, Nat.le_of_not_lt hq]⟩)

/-- Several bytes on the line write nothing but the queue, whose bytes stay at its head, and `OVR`. -/
theorem captureAll_frame (bs : List Byte) (s : State) :
    ∃ (added : List Byte) (o : Bool), captureAll bs s = { s with rxq := s.rxq ++ added, ovr := o } ∧
      (s.rxq.length ≤ 32 → (s.rxq ++ added).length ≤ 32) := by
  induction bs generalizing s with
  | nil => exact ⟨[], s.ovr, by simp [captureAll], by simp⟩
  | cons b bs ih =>
    obtain ⟨added, o, h, hlen⟩ := ih (capture b s)
    rw [captureAll, h]
    obtain ⟨-, hq, hc⟩ | ⟨-, -, hc⟩ | ⟨-, hc⟩ := capture_cases b s <;> rw [hc] at hlen ⊢
    · refine ⟨b :: added, o, by simp, fun _ => ?_⟩
      simpa using hlen (by simpa using hq)
    · exact ⟨added, o, rfl, hlen⟩
    · exact ⟨added, o, rfl, hlen⟩

/-- Without loop-back the receiver hears nothing of what is on the line while the core drives (R87, R91). -/
theorem captureAll_not_listening (bs : List Byte) (s : State) (h : listening s = false) : captureAll bs s = s := by
  induction bs with
  | nil => rfl
  | cons b bs ih => rw [captureAll, show capture b s = s by simp [capture, h], ih]

/-- A listening receiver takes what there is room for and sets `OVR` for the rest (R91, R92). -/
theorem captureAll_listening (bs : List Byte) (s : State) (h : listening s = true) :
    captureAll bs s =
      { s with
        rxq := s.rxq ++ bs.take (32 - s.rxq.length)
        ovr := s.ovr || decide (32 - s.rxq.length < bs.length) } := by
  induction bs generalizing s with
  | nil => simp [captureAll]
  | cons b bs ih =>
    rw [captureAll]
    by_cases hr : s.rxq.length < 32
    · obtain ⟨d, hd⟩ : ∃ d, 32 - s.rxq.length = d + 1 := ⟨31 - s.rxq.length, by omega⟩
      have hc : capture b s = { s with rxq := s.rxq ++ [b] } := by
        simp [capture, h, Config.rxqDepth, hr, show ¬32 ≤ s.rxq.length by omega]
      have h1 : 32 - (s.rxq.length + 1) = d := by omega
      rw [hc, ih { s with rxq := s.rxq ++ [b] } h]
      simp [h1, hd]
    · have hc : capture b s = { s with ovr := true } := by
        simp [capture, h, Config.rxqDepth, hr, show 32 ≤ s.rxq.length by omega]
      rw [hc, ih { s with ovr := true } h]
      simp [show 32 - s.rxq.length = 0 by omega]

/-- One byte sent with `CFG.LB = 0` (R87): driven, and the line listening again. -/
theorem sendByte_noLoopBack (b : Byte) (heard : List Byte) (s : State) (h : loopBack s = false) :
    sendByte b heard s =
      { s with
        dir := .input
        bus := { s.bus with sent := s.bus.sent ++ [b], wire := s.bus.wire ++ [b] } } := by
  have hl : listening (drive b (setDir .output s)) = false := by
    simpa [listening, loopBack] using fun _ => h
  rw [sendByte, captureAll_not_listening heard _ hl]
  rfl

/-- One byte sent, whatever the receiver hears meanwhile (R87, R88): it is driven, the line listens again, and nothing
is written beside the queue, whose bytes stay at its head, and `OVR`. -/
theorem sendByte_frame (b : Byte) (heard : List Byte) (s : State) :
    ∃ (added : List Byte) (o : Bool),
      sendByte b heard s =
        { s with
          dir := .input
          rxq := s.rxq ++ added
          ovr := o
          bus := { s.bus with sent := s.bus.sent ++ [b], wire := s.bus.wire ++ [b] } } ∧
      (s.rxq.length ≤ 32 → (s.rxq ++ added).length ≤ 32) := by
  obtain ⟨added, o, he, hlen⟩ := captureAll_frame heard (drive b (setDir .output s))
  exact ⟨added, o, by rw [sendByte, he]; rfl, hlen⟩

/-! ### Sequencing of computations that may stop -/

/-- A sequence answers a next state only through both computations. -/
theorem andThen_next {α β : Type} {x : Host.Outcome α Fault Refusal} {f : α → Host.Outcome β Fault Refusal} {b : β} :
    andThen x f = .next b ↔ ∃ a, x = .next a ∧ f a = .next b := by
  cases x <;> simp [andThen]

/-- A range that has a meaning lies inside the register space (R40, R44). -/
theorem withRange_next {α : Type} {a : Actuator} {addr n : Nat} {go : Host.Outcome α Fault Refusal} {b : α} :
    withRange a addr n go = .next b ↔
      addr + n ≤ 256 ∧ (a.flatRanges = true ∨ crossesRegister a.hr addr n = false) ∧ go = .next b := by
  unfold withRange pastEnd
  by_cases h : 256 < addr + n
  · simp [h]
  · have h' : addr + n ≤ 256 := by omega
    cases a.flatRanges <;> cases crossesRegister a.hr addr n <;> simp [h, h']

/-- Staging answers only where nothing is staged and the range has a meaning, and then records the write (R55). -/
theorem stageWrite_next {addr : Byte} {data : List Byte} {k : Nat} {a b : Actuator} :
    stageWrite addr data k a = .next b ↔
      a.staged = none ∧ addr.toNat + data.length ≤ 256 ∧
        (a.flatRanges = true ∨ crossesRegister a.hr addr.toNat data.length = false) ∧
        b = { a with staged := some (addr, data) } := by
  unfold stageWrite
  cases h : a.staged with
  | some p => simp
  | none =>
    simp only [withRange_next, Host.Outcome.next.injEq, true_and]
    exact ⟨fun ⟨h1, h2, h3⟩ => ⟨h1, h2, h3.symm⟩, fun ⟨h1, h2, h3⟩ => ⟨h1, h2, h3.symm⟩⟩

/-! ### Bytes on the line that are no packet -/

/-- What the actuators make of bytes that decode to nothing (R52, R63, K19): a stop where a frame may reach one of them,
else the bytes pass by. -/
theorem unreadable_cases (e : DecodeError) (s : State) :
    (e ≠ .badHeader ∧ mayReach s.bus.wire s.bus.actuators = true ∧ unreadable e s = .refused (frameRefusal e)) ∨
    ((e = .badHeader ∨ mayReach s.bus.wire s.bus.actuators = false) ∧ unreadable e s = .next (passBy e s)) := by
  unfold unreadable
  split
  · rename_i h
    exact .inl ⟨h.1, h.2, rfl⟩
  · rename_i h
    refine .inr ⟨?_, rfl⟩
    by_cases he : e = .badHeader
    · exact .inl he
    · exact .inr (by simpa [he] using h)

/-- Bytes that pass by: a whole frame is taken by its length, of any others at least one byte (R65; log entry 31). -/
theorem passBy_cases (e : DecodeError) (s : State) :
    (wholeFrame e = true ∧ passBy e s = takeWire (s.bus.wire.drop (frameLength s.bus.wire)) s) ∨
    (wholeFrame e = false ∧ passBy e s = loseBytes s) := by
  unfold passBy
  cases h : wholeFrame e
  · exact .inr ⟨rfl, rfl⟩
  · exact .inl ⟨rfl, rfl⟩

/-- What a lost reply byte does (R229): the queue of owed bytes loses its head while the core is about to drive one. -/
theorem loseReply_cases (s : State) :
    (s.pc = .txb ∧ loseReply s = { s with bus := { s.bus with reply := s.bus.reply.tail } }) ∨
    (s.pc ≠ .txb ∧ loseReply s = s) := by
  unfold loseReply
  split
  · rename_i h
    exact .inl ⟨h, rfl⟩
  · rename_i h
    exact .inr ⟨h, rfl⟩

/-! ### Time -/

/-- `wait_cnt` counts and stays at its largest value (R205). -/
theorem addTicks_toNat (c : Word) (n : Nat) : (addTicks c n).toNat = min (c.toNat + n) 4294967295 := by
  unfold addTicks
  split <;> simp only [BitVec.toNat_ofNat, BitVec.toNat_allOnes] <;> omega

end Sys2Proof.Machine
end

