-- ==== Sys2Proof/Laws/Memory.lean ====
section
/-! SUPPORT. The contents of an actuator's registers: every store keeps the canonical form, a read after a store, and
what a packet does to the list of attached actuators. -/

namespace Sys2Proof.Machine

/-! ### The canonical form -/

/-- A list in canonical form: a first address below 256 and below every later one. -/
theorem Memory.wf_cons (c : Host.Cell) (m : Memory) :
    Memory.wf (c :: m) = true ↔ c.1 < 256 ∧ (∀ d ∈ m, c.1 < d.1) ∧ Memory.wf m = true := by
  induction m generalizing c with
  | nil => simp [Memory.wf]
  | cons d m ih =>
    simp only [Memory.wf, Bool.and_eq_true, decide_eq_true_eq]
    constructor
    · rintro ⟨hlt, hwf⟩
      obtain ⟨hd, hall, -⟩ := (ih d).mp hwf
      refine ⟨by omega, ?_, hwf⟩
      intro e he
      rcases List.mem_cons.mp he with rfl | he
      · exact hlt
      · exact hlt.trans (hall e he)
    · rintro ⟨-, hall, hwf⟩
      exact ⟨hall d (by simp), hwf⟩

/-- The addresses after a store are those before it and the one stored to. -/
theorem Memory.mem_write {m : Memory} {a : Nat} {b : Byte} {c : Host.Cell} (h : c ∈ Memory.write m a b) :
    c = (a, b) ∨ c ∈ m := by
  induction m with
  | nil => simpa [Memory.write] using h
  | cons d m ih =>
    simp only [Memory.write] at h
    split at h
    · simpa using h
    · split at h
      · rcases List.mem_cons.mp h with h | h
        · exact .inl h
        · exact .inr (by simp [h])
      · rcases List.mem_cons.mp h with h | h
        · exact .inr (by simp [h])
        · rcases ih h with h | h
          · exact .inl h
          · exact .inr (by simp [h])

/-- A store keeps the canonical form. -/
theorem Memory.write_wf {m : Memory} {a : Nat} (b : Byte) (ha : a < 256) (h : Memory.wf m = true) :
    Memory.wf (Memory.write m a b) = true := by
  induction m with
  | nil => simpa [Memory.write, Memory.wf] using ha
  | cons c m ih =>
    obtain ⟨hc, hall, hm⟩ := (Memory.wf_cons c m).mp h
    simp only [Memory.write]
    split
    · rename_i hlt
      refine (Memory.wf_cons _ _).mpr ⟨ha, ?_, h⟩
      intro d hd
      rcases List.mem_cons.mp hd with rfl | hd
      · exact hlt
      · exact hlt.trans (hall d hd)
    · split
      · rename_i heq
        exact (Memory.wf_cons _ _).mpr ⟨ha, fun d hd => heq ▸ hall d hd, hm⟩
      · refine (Memory.wf_cons _ _).mpr ⟨hc, ?_, ih hm⟩
        intro d hd
        rcases Memory.mem_write hd with rfl | hd
        · simp only; omega
        · exact hall d hd

/-- In canonical form an address below every listed one is not listed. -/
theorem Memory.read_none {m : Memory} {a : Nat} (h : ∀ c ∈ m, a < c.1) : Memory.read m a = none := by
  induction m with
  | nil => rfl
  | cons c m ih =>
    have hc := h c (by simp)
    simp only [Memory.read, if_neg (show ¬c.1 = a by omega)]
    exact ih fun d hd => h d (by simp [hd])

/-- A read after a store: the byte stored at that address, every other address as before. -/
theorem Memory.read_write (m : Memory) (a : Nat) (b : Byte) (x : Nat) :
    Memory.read (Memory.write m a b) x = if x = a then some b else Memory.read m x := by
  induction m with
  | nil => simp [Memory.write, Memory.read, eq_comm]
  | cons c m ih =>
    simp only [Memory.write]
    split
    · by_cases hx : x = a
      · simp [Memory.read, hx]
      · simp [Memory.read, hx, Ne.symm hx]
    · split
      · rename_i heq
        by_cases hx : x = a
        · simp [Memory.read, hx]
        · simp [Memory.read, hx, Ne.symm hx, ← heq]
      · rename_i hne
        by_cases hx : x = c.1
        · simp [Memory.read, hx, Ne.symm hne]
        · simp [Memory.read, Ne.symm hx, ih]

/-- The contents known of an actuator just attached are in canonical form. -/
theorem Memory.wf_nil : Memory.wf [] = true := rfl

/-! ### One actuator -/

/-- A store keeps the canonical form of an actuator's registers. -/
theorem storeByte_wf {a : Actuator} {addr : Nat} (b : Byte) (ha : addr < 256) (h : Memory.wf a.regs = true) :
    Memory.wf (storeByte a addr b).regs = true := by
  unfold storeByte
  split
  · exact h
  · exact Memory.write_wf b ha h

/-- A store of a range inside the register space keeps the canonical form. -/
theorem storeBytes_wf {a : Actuator} {addr : Nat} (bs : List Byte) (ha : addr + bs.length ≤ 256)
    (h : Memory.wf a.regs = true) : Memory.wf (storeBytes a addr bs).regs = true := by
  induction bs generalizing a addr with
  | nil => exact h
  | cons b bs ih =>
    simp only [List.length_cons] at ha
    exact ih (by omega) (storeByte_wf b (by omega) h)

/-- A byte read after a store, the bus ID's register included (R42). -/
theorem loadByte_storeByte (a : Actuator) (addr : Nat) (b : Byte) (x : Nat) :
    loadByte (storeByte a addr b) x = if x = addr then some b else loadByte a x := by
  by_cases hx : x = busIdAddr <;> by_cases ha : addr = busIdAddr
  · subst hx ha; simp [loadByte, storeByte]
  · subst hx
    simp [loadByte, storeByte, ha, Ne.symm ha]
  · subst ha
    simp [loadByte, storeByte, hx]
  · simp [loadByte, storeByte, ha, hx, Memory.read_write]

/-- A byte read after a range was stored (R54). -/
theorem loadByte_storeBytes (a : Actuator) (addr : Nat) (bs : List Byte) (x : Nat) :
    loadByte (storeBytes a addr bs) x =
      if addr ≤ x ∧ x < addr + bs.length then bs[x - addr]? else loadByte a x := by
  induction bs generalizing a addr with
  | nil => simp [storeBytes]
  | cons b bs ih =>
    rw [storeBytes, ih, loadByte_storeByte, List.length_cons]
    by_cases hx : x = addr
    · subst hx
      rw [if_neg (by omega), if_pos rfl, if_pos (by omega)]
      simp
    · by_cases h : addr + 1 ≤ x ∧ x < addr + 1 + bs.length
      · obtain ⟨d, hd⟩ : ∃ d, x - addr = d + 1 := ⟨x - addr - 1, by omega⟩
        rw [if_pos h, if_pos (by omega), hd, show x - (addr + 1) = d by omega]
        simp
      · rw [if_neg h, if_neg hx, if_neg (by omega)]

/-- Storing changes neither the staged write, the error byte, the family nor the way ranges are taken. -/
theorem storeBytes_frame (a : Actuator) (addr : Nat) (bs : List Byte) :
    (storeBytes a addr bs).staged = a.staged ∧ (storeBytes a addr bs).error = a.error ∧
      (storeBytes a addr bs).flatRanges = a.flatRanges ∧ (storeBytes a addr bs).hr = a.hr := by
  induction bs generalizing a addr with
  | nil => exact ⟨rfl, rfl, rfl, rfl⟩
  | cons b bs ih =>
    obtain ⟨hs, he, hf, hh⟩ := ih (storeByte a addr b) (addr + 1)
    rw [storeBytes, hs, he, hf, hh]
    unfold storeByte
    split <;> exact ⟨rfl, rfl, rfl, rfl⟩

/-- An immediate write leaves of a staged write what it was, or none (N10; log entry 16), and nothing else. -/
theorem keepStaged_frame (k addr n : Nat) (a : Actuator) :
    (keepStaged k addr n a).id = a.id ∧ (keepStaged k addr n a).regs = a.regs ∧
      (keepStaged k addr n a).error = a.error ∧ (keepStaged k addr n a).flatRanges = a.flatRanges ∧
      (keepStaged k addr n a).hr = a.hr ∧
      ((keepStaged k addr n a).staged = a.staged ∨ (keepStaged k addr n a).staged = none) := by
  unfold keepStaged
  split
  · exact ⟨rfl, rfl, rfl, rfl, rfl, .inl rfl⟩
  · rename_i h
    split
    · refine ⟨rfl, rfl, rfl, rfl, rfl, ?_⟩
      cases Config.freeBit k <;> simp [h]
    · exact ⟨rfl, rfl, rfl, rfl, rfl, .inl rfl⟩

/-- A staged write stays where no register written is one of its own (R55). -/
theorem keepStaged_of_not_meets (k addr n : Nat) (a : Actuator)
    (h : ∀ p, a.staged = some p → meets addr n p.1.toNat p.2.length = false) : keepStaged k addr n a = a := by
  unfold keepStaged
  split
  · rfl
  · rename_i p q hs
    rw [h _ hs]
    rfl

/-- Two ranges meet exactly where an address lies in both. -/
theorem meets_iff (a n b m : Nat) : meets a n b m = true ↔ ∃ x, (a ≤ x ∧ x < a + n) ∧ b ≤ x ∧ x < b + m := by
  unfold meets
  rw [decide_eq_true_iff]
  constructor
  · intro h
    exact ⟨max a b, by omega⟩
  · rintro ⟨x, h⟩
    omega

/-! ### The attached actuators -/

/-- What a packet does to the list of actuators: as many as before, each reached one after its own `f`, each other one
as before (R52). -/
theorem eachReached_next {id : Byte} {f : Nat → Actuator → Host.Outcome Actuator Fault Refusal} {k : Nat}
    {l l' : List Actuator} (h : eachReached id f k l = .next l') :
    l'.length = l.length ∧ ∀ (j : Nat) (a b : Actuator), l[j]? = some a → l'[j]? = some b →
      (reaches id a = false ∧ b = a) ∨ (reaches id a = true ∧ f (k + j) a = .next b) := by
  induction l generalizing k l' with
  | nil =>
    simp only [eachReached, Host.Outcome.next.injEq] at h
    subst h
    simp
  | cons a l ih =>
    simp only [eachReached, andThen_next, Host.Outcome.next.injEq] at h
    obtain ⟨a', ha, as, has, rfl⟩ := h
    obtain ⟨hlen, hall⟩ := ih has
    refine ⟨by simp [hlen], ?_⟩
    intro j x y hx hy
    cases j with
    | zero =>
      simp only [List.getElem?_cons_zero, Option.some.injEq] at hx hy
      subst hx hy
      cases hr : reaches id a <;> simp_all
    | succ j =>
      simp only [List.getElem?_cons_succ] at hx hy
      have := hall j x y hx hy
      rwa [show k + (j + 1) = k + 1 + j by omega]

/-- A packet is acted on when every actuator it reaches can act on it. -/
theorem eachReached_completes {id : Byte} {f : Nat → Actuator → Host.Outcome Actuator Fault Refusal} {k : Nat}
    {l : List Actuator} (h : ∀ a ∈ l, reaches id a = true → ∀ j, ∃ b, f j a = .next b) :
    ∃ l', eachReached id f k l = .next l' := by
  induction l generalizing k with
  | nil => exact ⟨[], rfl⟩
  | cons a l ih =>
    obtain ⟨as, has⟩ := ih (k := k + 1) fun b hb => h b (by simp [hb])
    obtain ⟨a', ha⟩ : ∃ a', (if reaches id a then f k a else .next a) = .next a' := by
      cases hr : reaches id a with
      | true => simpa [hr] using h a (by simp) hr k
      | false => exact ⟨a, by simp⟩
    exact ⟨a' :: as, by simp [eachReached, ha, has, andThen]⟩

/-- One reached actuator that refuses makes the packet a refusal, when every other reached one refuses so too or can
act. -/
theorem eachReached_refused {id : Byte} {f : Nat → Actuator → Host.Outcome Actuator Fault Refusal} {r : Refusal}
    {k : Nat} {l : List Actuator} (hx : ∃ a ∈ l, reaches id a = true ∧ ∀ j, f j a = .refused r)
    (h : ∀ a ∈ l, reaches id a = true → ∀ j, f j a = .refused r ∨ ∃ b, f j a = .next b) :
    eachReached id f k l = .refused r := by
  induction l generalizing k with
  | nil => simp at hx
  | cons a l ih =>
    rw [eachReached]
    by_cases hr : reaches id a = true ∧ f k a = .refused r
    · rw [if_pos hr.1, hr.2]; rfl
    · have rest : eachReached id f (k + 1) l = .refused r := by
        obtain ⟨b, hb, hrb, hfb⟩ := hx
        rcases List.mem_cons.mp hb with rfl | hb
        · exact absurd ⟨hrb, hfb k⟩ hr
        · exact ih ⟨b, hb, hrb, hfb⟩ fun c hc => h c (by simp [hc])
      obtain ⟨a', ha⟩ : ∃ a', (if reaches id a then f k a else .next a) = .next a' := by
        cases hra : reaches id a with
        | false => exact ⟨a, by simp⟩
        | true => simpa using (h a (by simp) hra k).resolve_left fun e => hr ⟨hra, e⟩
      rw [ha, rest]; rfl

/-- One reached actuator that faults makes the packet a fault, when every other reached one faults so too or can act. -/
theorem eachReached_fault {id : Byte} {f : Nat → Actuator → Host.Outcome Actuator Fault Refusal} {r : Fault}
    {k : Nat} {l : List Actuator} (hx : ∃ a ∈ l, reaches id a = true ∧ ∀ j, f j a = .fault r)
    (h : ∀ a ∈ l, reaches id a = true → ∀ j, f j a = .fault r ∨ ∃ b, f j a = .next b) :
    eachReached id f k l = .fault r := by
  induction l generalizing k with
  | nil => simp at hx
  | cons a l ih =>
    rw [eachReached]
    by_cases hr : reaches id a = true ∧ f k a = .fault r
    · rw [if_pos hr.1, hr.2]; rfl
    · have rest : eachReached id f (k + 1) l = .fault r := by
        obtain ⟨b, hb, hrb, hfb⟩ := hx
        rcases List.mem_cons.mp hb with rfl | hb
        · exact absurd ⟨hrb, hfb k⟩ hr
        · exact ih ⟨b, hb, hrb, hfb⟩ fun c hc => h c (by simp [hc])
      obtain ⟨a', ha⟩ : ∃ a', (if reaches id a then f k a else .next a) = .next a' := by
        cases hra : reaches id a with
        | false => exact ⟨a, by simp⟩
        | true => simpa using (h a (by simp) hra k).resolve_left fun e => hr ⟨hra, e⟩
      rw [ha, rest]; rfl

end Sys2Proof.Machine
end

