-- ==== Sys2Proof/Laws/Operands.lean ====
section
/-! SUPPORT. What each acceptance check of 43_bus_ops.md R140 says of the operands. -/

namespace Sys2Proof.Machine

/-- `VAL` lies in its domain (R77). -/
theorem outside_eq_false (lo hi : Int) (s : State) :
    outside lo hi s = false ↔ lo ≤ s.val.toInt ∧ s.val.toInt ≤ hi := by
  unfold outside valInt
  rw [decide_eq_false_iff_not]
  omega

/-- `VAL` lies outside its domain (R77). -/
theorem outside_eq_true (lo hi : Int) (s : State) :
    outside lo hi s = true ↔ s.val.toInt < lo ∨ hi < s.val.toInt := by
  unfold outside valInt
  rw [decide_eq_true_iff]

/-- Starting an operation leaves the operands as they are, so the checks read what the host wrote (R51). -/
@[simp] theorem outside_beginOp (lo hi : Int) (op : Byte) (s : State) :
    outside lo hi (beginOp op s) = outside lo hi s := rfl

@[simp] theorem badFlags_beginOp (defined op : Byte) (s : State) :
    badFlags defined (beginOp op s) = badFlags defined s := rfl

@[simp] theorem countCheck_beginOp (limit : Nat) (op : Byte) (s : State) :
    countCheck limit (beginOp op s) = countCheck limit s := rfl

/-- With `CMD_FLAGS` clear no flag is undefined (R22). -/
theorem badFlags_of_zero (defined : Byte) {s : State} (h : s.cmdFlags = 0#8) : badFlags defined s = false := by
  simp [badFlags, h]

/-- An operation that defines no flag finds an undefined one as soon as one is set (R22). -/
theorem badFlags_noFlags (s : State) : badFlags noFlags s = (s.cmdFlags != 0#8) := by
  rw [badFlags, noFlags, show ~~~(0x00#8 : Byte) = BitVec.allOnes 8 from rfl, BitVec.and_allOnes]

/-- `CMD_COUNT` is within its limit (R140 check 6). -/
theorem countCheck_eq_false (limit : Nat) (s : State) :
    (countCheck limit s).1 = false ↔ s.cmdCount.toNat ≤ limit := by
  unfold countCheck
  rw [decide_eq_false_iff_not]
  omega

/-- The bytes an operation takes from `WDATA` (R24), for a count within it. -/
theorem operandBytes_length {s : State} (h : s.cmdCount.toNat ≤ 14) :
    (operandBytes s).length = s.cmdCount.toNat := by
  simp [operandBytes]
  omega

/-- A packet of `n` parameters has `n + 6` bytes (R61). -/
@[simp] theorem packet_length (id code : Byte) (params : List Byte) :
    (packet id code params).length = params.length + 6 := by
  simp [packet, coveredBytes]

end Sys2Proof.Machine
end

