-- ==== Sys2Proof/Laws/PerInstr.lean ====
section
/-! SUPPORT. A statement about every instruction as syntax, one lemma per constructor: the length of its encoding. -/

namespace Sys2Proof.Laws

/-- A well-formed instruction is written in at least one byte and in at most `MAX_FRAME` (R5, R61, R74). -/
def EncodedLength.Statement (i : Instr) : Prop :=
  i.wellFormed = true → 1 ≤ (encode i).length ∧ (encode i).length ≤ Config.maxFrame

theorem EncodedLength.linkTx : EncodedLength.Statement .linkTx := fun _ => by decide

theorem EncodedLength.linkRx : EncodedLength.Statement .linkRx := fun _ => by decide

theorem EncodedLength.read : EncodedLength.Statement .read := fun _ => by decide

theorem EncodedLength.write : EncodedLength.Statement .write := fun _ => by decide

theorem EncodedLength.trigger : EncodedLength.Statement .trigger := fun _ => by decide

theorem EncodedLength.setGoal : EncodedLength.Statement .setGoal := fun _ => by decide

theorem EncodedLength.setCwLimit : EncodedLength.Statement .setCwLimit := fun _ => by decide

theorem EncodedLength.setCcwLimit : EncodedLength.Statement .setCcwLimit := fun _ => by decide

theorem EncodedLength.setCrSpeed : EncodedLength.Statement .setCrSpeed := fun _ => by decide

theorem EncodedLength.setTorqueLimit : EncodedLength.Statement .setTorqueLimit := fun _ => by decide

theorem EncodedLength.torqueEnable : EncodedLength.Statement .torqueEnable := fun _ => by decide

theorem EncodedLength.setMode : EncodedLength.Statement .setMode := fun _ => by decide

theorem EncodedLength.setId : EncodedLength.Statement .setId := fun _ => by decide

theorem EncodedLength.getPosition : EncodedLength.Statement .getPosition := fun _ => by decide

theorem EncodedLength.getTemperature : EncodedLength.Statement .getTemperature := fun _ => by decide

theorem EncodedLength.getVoltage : EncodedLength.Statement .getVoltage := fun _ => by decide

theorem EncodedLength.getCurrent : EncodedLength.Statement .getCurrent := fun _ => by decide

theorem EncodedLength.isMoving : EncodedLength.Statement .isMoving := fun _ => by decide

theorem EncodedLength.reservedOp (op : Byte) : EncodedLength.Statement (.reservedOp op) := fun _ => by
  simp [encode, Config.maxFrame]

theorem EncodedLength.ipktRead (id addr count : Byte) : EncodedLength.Statement (.ipktRead id addr count) :=
  fun _ => by simp [encode, Config.maxFrame, Machine.packet_length]

theorem EncodedLength.ipktWrite (id addr : Byte) (data : List Byte) :
    EncodedLength.Statement (.ipktWrite id addr data) := by
  intro h
  simp only [Instr.wellFormed, isWriteData, decide_eq_true_eq] at h
  simp [encode, Config.maxFrame, Machine.packet_length]
  have : Config.maxParams = 14 := rfl
  omega

theorem EncodedLength.ipktRegWrite (id addr : Byte) (data : List Byte) :
    EncodedLength.Statement (.ipktRegWrite id addr data) := by
  intro h
  simp only [Instr.wellFormed, isWriteData, decide_eq_true_eq] at h
  simp [encode, Config.maxFrame, Machine.packet_length]
  have : Config.maxParams = 14 := rfl
  omega

theorem EncodedLength.ipktAction : EncodedLength.Statement .ipktAction := fun _ => by decide

theorem EncodedLength.spkt (hdr0 hdr1 id len error : Byte) (params : List Byte) (chk : Byte) :
    EncodedLength.Statement (.spkt hdr0 hdr1 id len error params chk) := by
  intro h
  simp only [Instr.wellFormed, isParams, decide_eq_true_eq] at h
  simp [encode, Config.maxFrame]
  have : Config.maxParams = 14 := rfl
  omega

theorem EncodedLength.ipktReserved (id code : Byte) (params : List Byte) :
    EncodedLength.Statement (.ipktReserved id code params) := by
  intro h
  simp only [Instr.wellFormed, isParams, Bool.and_eq_true, decide_eq_true_eq] at h
  simp [encode, Config.maxFrame, Machine.packet_length]
  have : Config.maxParams = 14 := rfl
  omega

end Sys2Proof.Laws
end

