-- ==== Sys2Proof/Tests/Slice0.lean ====
section
/-! SUPPORT. Tests of one step or one word each, expected results from the spec's own examples and vectors
(95_test_vectors.md and the worked examples of the rules), and a witness for the hypotheses of each statement. -/

namespace Sys2Proof.Tests

open Sys2Proof.Machine

/-! ## WellFormed refuses -/

theorem test_ill_reserved_op : (Instr.reservedOp 0x20#8).wellFormed = false := by decide
theorem test_ill_write_long : (Instr.ipktWrite 1#8 0x1E#8 (List.replicate 14 0#8)).wellFormed = false := by decide
theorem test_ill_staged_long :
    (Instr.ipktRegWrite 1#8 0x1E#8 (List.replicate 14 0#8)).wellFormed = false := by decide
theorem test_ill_status_long :
    (Instr.spkt 0xFF#8 0xFF#8 1#8 17#8 0#8 (List.replicate 15 0#8) 0#8).wellFormed = false := by decide
theorem test_ill_reserved_code : (Instr.ipktReserved 1#8 3#8 []).wellFormed = false := by decide
theorem test_ill_reserved_long :
    (Instr.ipktReserved 1#8 5#8 (List.replicate 15 0#8)).wellFormed = false := by decide

/-! ## Words written out from the encodings: R75 for the opcodes, R61 to R71 for the packets -/

theorem test_word_link_tx : decode .host [0b00010000#8] = .ok (.linkTx, []) := by decide
theorem test_word_link_rx : decode .host [0b00010001#8] = .ok (.linkRx, []) := by decide
theorem test_word_read : decode .host [0b00100000#8] = .ok (.read, []) := by decide
theorem test_word_write : decode .host [0b00100001#8] = .ok (.write, []) := by decide
theorem test_word_trigger : decode .host [0b00100010#8] = .ok (.trigger, []) := by decide
theorem test_word_set_goal : decode .host [0b00110000#8] = .ok (.setGoal, []) := by decide
theorem test_word_set_cw_limit : decode .host [0b00110001#8] = .ok (.setCwLimit, []) := by decide
theorem test_word_set_ccw_limit : decode .host [0b00110010#8] = .ok (.setCcwLimit, []) := by decide
theorem test_word_set_cr_speed : decode .host [0b00110011#8] = .ok (.setCrSpeed, []) := by decide
theorem test_word_set_torque_limit : decode .host [0b00110100#8] = .ok (.setTorqueLimit, []) := by decide
theorem test_word_torque_enable : decode .host [0b00110101#8] = .ok (.torqueEnable, []) := by decide
theorem test_word_set_mode : decode .host [0b00110110#8] = .ok (.setMode, []) := by decide
theorem test_word_set_id : decode .host [0b00110111#8] = .ok (.setId, []) := by decide
theorem test_word_get_position : decode .host [0b01000000#8] = .ok (.getPosition, []) := by decide
theorem test_word_get_temperature : decode .host [0b01000001#8] = .ok (.getTemperature, []) := by decide
theorem test_word_get_voltage : decode .host [0b01000010#8] = .ok (.getVoltage, []) := by decide
theorem test_word_get_current : decode .host [0b01000011#8] = .ok (.getCurrent, []) := by decide
theorem test_word_is_moving : decode .host [0b01000100#8] = .ok (.isMoving, []) := by decide
theorem test_word_reserved_op : decode .host [0b10110011#8] = .ok (.reservedOp 0xB3#8, []) := by decide

/-- The read frame of R143's worked example, `FF FF 01 04 02 24 02 D2`, bit by bit. -/
theorem test_word_ipkt_read :
    decode .lineOut [0b11111111#8, 0b11111111#8, 0b00000001#8, 0b00000100#8, 0b00000010#8, 0b00100100#8,
      0b00000010#8, 0b11010010#8] = .ok (.ipktRead 1#8 0x24#8 2#8, []) := by decide

/-- The write frame of R144's worked example, `FF FF 01 05 03 1E AA 06 28`, bit by bit. -/
theorem test_word_ipkt_write :
    decode .lineOut [0b11111111#8, 0b11111111#8, 0b00000001#8, 0b00000101#8, 0b00000011#8, 0b00011110#8,
      0b10101010#8, 0b00000110#8, 0b00101000#8] = .ok (.ipktWrite 1#8 0x1E#8 [0xAA#8, 0x06#8], []) := by decide

/-- The staged frame of program P2, `FF FF 01 05 04 1E 00 04 D3`, bit by bit. -/
theorem test_word_ipkt_reg_write :
    decode .lineOut [0b11111111#8, 0b11111111#8, 0b00000001#8, 0b00000101#8, 0b00000100#8, 0b00011110#8,
      0b00000000#8, 0b00000100#8, 0b11010011#8] = .ok (.ipktRegWrite 1#8 0x1E#8 [0x00#8, 0x04#8], []) := by decide

/-- The trigger frame of R71, `FF FF FE 02 04 FB`, bit by bit. -/
theorem test_word_ipkt_action :
    decode .lineOut [0b11111111#8, 0b11111111#8, 0b11111110#8, 0b00000010#8, 0b00000100#8, 0b11111011#8] =
      .ok (.ipktAction, []) := by decide

/-- The status packet of vector A24, `FF FF 01 03 00 78 83`, read with one parameter expected. -/
theorem test_word_spkt :
    decode (.lineIn 1) [0b11111111#8, 0b11111111#8, 0b00000001#8, 0b00000011#8, 0b00000000#8, 0b01111000#8,
      0b10000011#8] = .ok (.spkt 0xFF#8 0xFF#8 1#8 3#8 0#8 [0x78#8] 0x83#8, []) := by decide

/-- A packet with the code 0x06: `01 + 02 + 06 = 09`, checksum F6 (R66, R101). -/
theorem test_word_ipkt_reserved :
    decode .lineOut [0b11111111#8, 0b11111111#8, 0b00000001#8, 0b00000010#8, 0b00000110#8, 0b11110110#8] =
      .ok (.ipktReserved 1#8 6#8 [], []) := by decide

/-- The words of the table: bit 0 is the lowest bit of the first byte. -/
theorem test_table_set_mode : decodeTableWord 8 0x36 = some .setMode := by decide
theorem test_table_action : decodeTableWord 48 0xFB0402FEFFFF = some .ipktAction := by decide
theorem test_table_ipkt_read :
    decodeTableWord 64 0xD22402240401FFFF = none ∧
    decodeTableWord 64 0xD20224020401FFFF = some (.ipktRead 1#8 0x24#8 2#8) := by decide

/-- Bytes that are no packet: a wrong checksum, a header byte, a length below 2, a parameterless 0x04 that is no
broadcast, a frame cut short, one of 15 parameters (`07 + 11 + 03 = 1B`), and a byte without the header. -/
theorem test_bad_frames :
    decode .lineOut [0xFF#8, 0xFF#8, 0xFE#8, 0x02#8, 0x04#8, 0xFA#8] = .error .badChecksum ∧
    decode .lineOut [0xFF#8, 0xFE#8, 0xFE#8, 0x02#8, 0x04#8, 0xFB#8] = .error .badHeader ∧
    decode .lineOut [0xFF#8, 0xFF#8, 0xFE#8, 0x01#8, 0x04#8, 0xFC#8] = .error .badLength ∧
    decode .lineOut [0xFF#8, 0xFF#8, 0x01#8, 0x02#8, 0x04#8, 0xF8#8] = .error .triggerNotBroadcast ∧
    decode .lineOut [0xFF#8, 0xFF#8, 0x01#8, 0x02#8, 0x04#8] = .error .truncated ∧
    decode .lineOut ([0xFF#8, 0xFF#8, 0x07#8, 0x11#8, 0x03#8] ++ List.replicate 15 0#8 ++ [0xE4#8]) = .error .tooLong ∧
    decode .lineOut [0x41#8] = .error .badHeader := by decide

/-- R69 bounds no count and R70 lets the start register stand alone: `01 + 04 + 02 + 24 + FF = 12A`, checksum D5, and
`01 + 03 + 04 + 1E = 26`, checksum D9. -/
theorem test_wide_frames :
    decode .lineOut [0xFF#8, 0xFF#8, 0x01#8, 0x04#8, 0x02#8, 0x24#8, 0xFF#8, 0xD5#8] =
      .ok (.ipktRead 1#8 0x24#8 0xFF#8, []) ∧
    decode .lineOut [0xFF#8, 0xFF#8, 0x01#8, 0x03#8, 0x04#8, 0x1E#8, 0xD9#8] =
      .ok (.ipktRegWrite 1#8 0x1E#8 [], []) := by decide

/-! ## One step per instruction -/

/-- A next state with the property. -/
def after (o : Out) (p : State → Bool) : Bool :=
  match o with
  | .next t => p t
  | .fault _ => false
  | .refused _ => false

/-- Accepted, with this frame about to go out. -/
def accepted (frame : List Byte) (o : Out) : Bool :=
  after o fun t => t.busy && t.pc == .txb && t.txbuf.toList.take t.txn == frame

/-- Refused at acceptance with this code, nothing else pending. -/
def turnedAway (code : Byte) (o : Out) : Bool := after o fun t => t.done && !t.busy && t.pc == .idle && t.cc == code

/-- An idle core with device 1 selected at both levels. -/
def ready : State := { State.reset with devId := 1#8, cmdId := 1#8 }

/-- L15 and L16: `LINK_TX`. -/
theorem test_link_tx :
    accepted [0x41#8, 0x42#8] (exec .linkTx
      { ready with cmdCount := 2#8, wdata := fill (Vector.replicate 14 0#8) 0 [0x41#8, 0x42#8] }) = true ∧
    turnedAway 6#8 (exec .linkTx { ready with cmdCount := 15#8 }) = true := by decide

/-- L14: `LINK_RX` refuses any flag, else it waits for one byte. -/
theorem test_link_rx :
    turnedAway 2#8 (exec .linkRx { ready with cmdFlags := 1#8 }) = true ∧
    after (exec .linkRx ready) (fun t => t.busy && t.pc == .rxb && t.rxn == 1) = true := by decide

/-- R143's worked example, and X7. -/
theorem test_read :
    accepted [0xFF#8, 0xFF#8, 0x01#8, 0x04#8, 0x02#8, 0x24#8, 0x02#8, 0xD2#8]
      (exec .read { ready with cmdAddr := 0x24#8, cmdCount := 2#8 }) = true ∧
    turnedAway 4#8 (exec .read { ready with cmdId := 0xFE#8, cmdCount := 20#8 }) = true := by decide

/-- R144's worked example, and X10. -/
theorem test_write :
    accepted [0xFF#8, 0xFF#8, 0x01#8, 0x05#8, 0x03#8, 0x1E#8, 0xAA#8, 0x06#8, 0x28#8]
      (exec .write { ready with
        cmdAddr := 0x1E#8, cmdCount := 2#8, wdata := fill (Vector.replicate 14 0#8) 0 [0xAA#8, 0x06#8] }) = true ∧
    turnedAway 3#8 (exec .write { ready with cmdId := 0xFF#8, cmdCount := 14#8 }) = true := by decide

/-- R145's worked example and X15: neither `DEV_ID` nor `CMD_ID` is read. -/
theorem test_trigger :
    accepted [0xFF#8, 0xFF#8, 0xFE#8, 0x02#8, 0x04#8, 0xFB#8]
      (exec .trigger { ready with devId := 0xFF#8, cmdId := 0xFF#8 }) = true ∧
    turnedAway 2#8 (exec .trigger { ready with cmdFlags := 1#8 }) = true := by decide

/-- S6: 150 degrees; P2: 180 degrees, the tie, staged. -/
theorem test_set_goal :
    accepted [0xFF#8, 0xFF#8, 0x01#8, 0x05#8, 0x03#8, 0x1E#8, 0xAA#8, 0x06#8, 0x28#8]
      (exec .setGoal { ready with val := 0x00960000#32 }) = true ∧
    accepted [0xFF#8, 0xFF#8, 0x02#8, 0x05#8, 0x04#8, 0x1E#8, 0x00#8, 0x08#8, 0xCE#8]
      (exec .setGoal { ready with devId := 2#8, cmdFlags := 1#8, val := 0x00B40000#32 }) = true := by decide

/-- R118 at 45.5 degrees (raw 518, `06 02`), and a negative angle. -/
theorem test_set_cw_limit :
    accepted [0xFF#8, 0xFF#8, 0x01#8, 0x05#8, 0x03#8, 0x06#8, 0x06#8, 0x02#8, 0xE8#8]
      (exec .setCwLimit { ready with val := 0x002D8000#32 }) = true ∧
    turnedAway 7#8 (exec .setCwLimit { ready with val := 0xFFFFFFFF#32 }) = true := by decide

/-- R118 at 300 degrees (raw 3413), the frame of X25; 360 degrees and one unit more. -/
theorem test_set_ccw_limit :
    accepted [0xFF#8, 0xFF#8, 0x01#8, 0x05#8, 0x03#8, 0x08#8, 0x55#8, 0x0D#8, 0x8C#8]
      (exec .setCcwLimit { ready with val := 0x012C0000#32 }) = true ∧
    turnedAway 7#8 (exec .setCcwLimit { ready with val := 0x01680001#32 }) = true := by decide

/-- S3: speeds -1.0 and 0.5. -/
theorem test_set_cr_speed :
    accepted [0xFF#8, 0xFF#8, 0x01#8, 0x05#8, 0x03#8, 0x20#8, 0xFF#8, 0x07#8, 0xD0#8]
      (exec .setCrSpeed { ready with val := 0xFFFF0000#32 }) = true ∧
    accepted [0xFF#8, 0xFF#8, 0x01#8, 0x05#8, 0x03#8, 0x20#8, 0x00#8, 0x02#8, 0xD4#8]
      (exec .setCrSpeed { ready with val := 0x00008000#32 }) = true := by decide

/-- R165: the full fraction is 1023; checksum `01 + 05 + 03 + 22 + FF + 03 = 2D` mod 256. -/
theorem test_set_torque_limit :
    accepted [0xFF#8, 0xFF#8, 0x01#8, 0x05#8, 0x03#8, 0x22#8, 0xFF#8, 0x03#8, 0xD2#8]
      (exec .setTorqueLimit { ready with val := 0x00010000#32 }) = true ∧
    turnedAway 7#8 (exec .setTorqueLimit { ready with val := 0x00010001#32 }) = true := by decide

/-- The frame of the codec's table, `FF FF 01 04 03 18 01 DE`, and a value that is no switch. -/
theorem test_torque_enable :
    accepted [0xFF#8, 0xFF#8, 0x01#8, 0x04#8, 0x03#8, 0x18#8, 0x01#8, 0xDE#8]
      (exec .torqueEnable { ready with val := 1#32 }) = true ∧
    turnedAway 7#8 (exec .torqueEnable { ready with val := 2#32 }) = true := by decide

/-- P4: the first frame of `SET_MODE`. -/
theorem test_set_mode :
    accepted [0xFF#8, 0xFF#8, 0x01#8, 0x05#8, 0x03#8, 0x06#8, 0x00#8, 0x00#8, 0xF0#8]
      (exec .setMode { ready with val := 1#32 }) = true := by decide

/-- X14 and A20. -/
theorem test_set_id :
    accepted [0xFF#8, 0xFF#8, 0x01#8, 0x04#8, 0x03#8, 0x03#8, 0x05#8, 0xEF#8]
      (exec .setId { ready with devId := 0xFF#8, val := 5#32 }) = true ∧
    turnedAway 7#8 (exec .setId { ready with val := 254#32 }) = true := by decide

/-- A21. -/
theorem test_get_position :
    accepted [0xFF#8, 0xFF#8, 0x01#8, 0x04#8, 0x02#8, 0x24#8, 0x02#8, 0xD2#8] (exec .getPosition ready) = true := by
  decide

/-- A23. -/
theorem test_get_temperature :
    accepted [0xFF#8, 0xFF#8, 0x01#8, 0x04#8, 0x02#8, 0x2B#8, 0x01#8, 0xCC#8] (exec .getTemperature ready) =
      true := by decide

/-- A24. -/
theorem test_get_voltage :
    accepted [0xFF#8, 0xFF#8, 0x01#8, 0x04#8, 0x02#8, 0x2A#8, 0x01#8, 0xCD#8] (exec .getVoltage ready) = true := by
  decide

/-- A26 and X6. -/
theorem test_get_current :
    accepted [0xFF#8, 0xFF#8, 0x01#8, 0x04#8, 0x02#8, 0x44#8, 0x02#8, 0xB2#8]
      (exec .getCurrent { ready with cfg := 1#8 }) = true ∧
    turnedAway 5#8 (exec .getCurrent ready) = true := by decide

/-- A29. -/
theorem test_is_moving :
    accepted [0xFF#8, 0xFF#8, 0x01#8, 0x04#8, 0x02#8, 0x2E#8, 0x01#8, 0xC9#8] (exec .isMoving ready) = true := by
  decide

/-- X2: a reserved opcode defines no flags and no target. -/
theorem test_reserved_op :
    turnedAway 1#8 (exec (.reservedOp 0x45#8) { ready with cmdFlags := 3#8, devId := 0xFF#8 }) = true := by decide

/-- A core that waits for the last byte of a reply to operation `op`. -/
def awaiting (op : Byte) : State := { ready with op := op, busy := true, pc := .rxb }

/-- A22, A26, A27: results of the getters, the fault byte kept beside the payload. -/
theorem test_spkt_get :
    after (exec (.spkt 0xFF#8 0xFF#8 1#8 4#8 4#8 [0x00#8, 0x04#8] 0xF2#8) (awaiting 0x40#8))
      (fun t => t.result == 76800#32 && t.err == 4#8 && t.faultSeen && t.cc == 0#8 && statusByte t == 0x0A#8) =
        true ∧
    after (exec (.spkt 0xFF#8 0xFF#8 1#8 4#8 0#8 [0x63#8, 0x09#8] 0x8E#8) (awaiting 0x43#8))
      (fun t => t.result == 4500#32) = true ∧
    after (exec (.spkt 0xFF#8 0xFF#8 1#8 4#8 0#8 [0x00#8, 0x08#8] 0xF2#8) (awaiting 0x43#8))
      (fun t => t.result == 0xFFFFD32D#32) = true := by decide

/-- X21: a bad checksum with `CHK_EN`, and X26: the poll limit. -/
theorem test_spkt_conditions :
    after (exec (.spkt 0xFF#8 0xFF#8 1#8 3#8 0#8 [0x78#8] 0x84#8) { awaiting 0x42#8 with cfg := 4#8 })
      (fun t => t.result == 120#32 && t.cc == 0xB#8 && statusByte t == 0x06#8) = true ∧
    after (exec (.spkt 0xFF#8 0xFF#8 1#8 3#8 0#8 [0x01#8] 0xFA#8)
        { awaiting 0x30#8 with cmdFlags := 2#8, sub := 1, werr := 0x24#8, pollcnt := 1#16, pollLimit := 2#16 })
      (fun t => t.cc == 0xA#8 && t.err == 0x24#8 && t.done) = true := by decide

/-- An actuator with bus ID 1 whose goal position is known, on the line. -/
def servo : Actuator where
  id := 1#8
  regs := [(0x1E, 0x34#8), (0x1F, 0x02#8)]
  staged := none
  error := 0#8
  hr := true
  flatRanges := false

/-- A line with one actuator. -/
def onLine (a : Actuator) : State := { ready with bus := { ready.bus with actuators := [a] } }

/-- R53: a read answered with the registers' content; `01 + 04 + 00 + 34 + 02 = 3B`. -/
theorem test_ipkt_read :
    after (exec (.ipktRead 1#8 0x1E#8 2#8) (onLine servo))
      (fun t => t.bus.reply == [0xFF#8, 0xFF#8, 1#8, 4#8, 0#8, 0x34#8, 0x02#8, 0xC4#8]) = true := by decide

/-- P1: the goal register takes `AA 06`; nobody answers a broadcast. -/
theorem test_ipkt_write :
    after (exec (.ipktWrite 0xFE#8 0x1E#8 [0xAA#8, 0x06#8]) (onLine servo))
      (fun t => t.bus.reply == [] &&
        t.bus.actuators.map (fun a => (loadByte a 0x1E, loadByte a 0x1F)) == [(some 0xAA#8, some 0x06#8)]) =
          true := by decide

/-- P2: a staged goal is recorded and the register keeps its content. -/
theorem test_ipkt_reg_write :
    after (exec (.ipktRegWrite 0xFE#8 0x1E#8 [0x00#8, 0x04#8]) (onLine servo))
      (fun t => t.bus.actuators.map (fun a => (loadByte a 0x1E, a.staged)) ==
        [(some 0x34#8, some (0x1E#8, [0x00#8, 0x04#8]))]) = true := by decide

/-- R44: a staged range across a register boundary is refused when it is sent, as an immediate one is. -/
theorem test_ranges :
    (match exec (.ipktRegWrite 1#8 0x1E#8 [0#8, 0#8, 0#8]) (onLine servo) with
      | .refused r => r == .registerBoundary
      | _ => false) = true ∧
    crossesRegister true 0x45 2 = true ∧ crossesRegister false 0x45 2 = false := by decide

/-- R52: a frame for an ID nobody has is nobody's, whatever is wrong with it; one for the servo stops. -/
theorem test_no_packet :
    (let s : State := onLine servo
     after (step { s with events := [.actuators], bus := { s.bus with wire := [0xFF#8, 0xFF#8, 7#8, 4#8] } })
      (fun t => t.bus.wire.length == 4) &&
     (match step { s with events := [.actuators], bus := { s.bus with wire := [0xFF#8, 0xFF#8, 1#8, 4#8] } } with
      | .refused r => r == .truncatedFrame
      | _ => false)) = true := by decide

/-- R52, R65: a parameterless 0x04 for an absent ID (`07 + 02 + 04 = 0D`) takes its six bytes off the line and leaves the
trigger behind it. -/
theorem test_whole_frame_passes :
    after (step { onLine servo with
        events := [.actuators],
        bus := { (onLine servo).bus with
          wire := [0xFF#8, 0xFF#8, 7#8, 2#8, 4#8, 0xF2#8] ++ [0xFF#8, 0xFF#8, 0xFE#8, 2#8, 4#8, 0xFB#8] } })
      (fun t => t.bus.wire == [0xFF#8, 0xFF#8, 0xFE#8, 2#8, 4#8, 0xFB#8]) = true := by decide

/-- N10, R55: a write of the staged register's neighbour, and one that stores nothing, leave a staged write. -/
theorem test_keep_staged :
    meets 0x20 2 0x1E 2 = false ∧ meets 0x1F 0 0x1E 2 = false ∧ meets 0x1F 1 0x1E 2 = true := by decide

/-- P2: the trigger applies it, and nobody replies. -/
theorem test_ipkt_action :
    after (exec .ipktAction (onLine { servo with staged := some (0x1E#8, [0x00#8, 0x04#8]) }))
      (fun t => t.bus.reply == [] &&
        t.bus.actuators.map (fun a => (loadByte a 0x1E, loadByte a 0x1F, a.staged)) ==
          [(some 0x00#8, some 0x04#8, none)]) = true := by decide

/-- A code the source does not define, addressed to nobody. -/
theorem test_ipkt_reserved :
    after (exec (.ipktReserved 7#8 6#8 []) (onLine servo)) (fun t => t.bus.actuators == [servo] && t.bus.reply == []) =
      true := by decide

/-- S4: the last byte of a broadcast write, with a stale byte queued. -/
theorem test_broadcast_end :
    after (step { ready with
        op := 0x21#8, busy := true, pc := .txb, tgt := 0xFE#8, txn := 9, txi := 8, rid := 7#8, rcount := 3#8,
        rxq := [0x55#8], events := [.tx []] })
      (fun t => t.err == 0#8 && t.rcount == 0#8 && t.rid == 7#8 && t.rxq == [0x55#8] && t.cc == 0#8 &&
        statusByte t == 0x82#8) = true := by decide

/-- L4: a stale byte is drained in place of the looped one. -/
theorem test_drain_mismatch :
    after (step { ready with
        cfg := 2#8, op := 0x10#8, busy := true, pc := .lbd, txn := 2, txi := 1, rxq := [0x41#8, 0x42#8],
        txbuf := fill (Vector.replicate 20 0#8) 0 [0x41#8, 0x42#8], events := [.drain] })
      (fun t => t.rxq == [0x42#8] && t.cc == 0#8 && statusByte t == 0xA2#8) = true := by decide

/-- L10: the 33rd byte is dropped and `OVR` is set. -/
theorem test_overrun :
    after (step { ready with rxq := List.replicate 32 0#8, events := [.line 0x20#8] })
      (fun t => t.rxq.length == 32 && statusByte t == 0x90#8) = true := by decide

/-- L11: `rx_irq` while idle, and not while busy. -/
theorem test_rx_irq :
    rxIrq { ready with cfg := 8#8, rxq := [0x33#8] } = true ∧
    rxIrq { ready with cfg := 8#8, rxq := [0x33#8], busy := true } = false := by decide

/-! ## Witnesses: states and operands that meet the hypotheses of a statement -/

/-- For DecodeUndoesEncode. -/
theorem witness_decode_undoes_encode :
    (Instr.ipktWrite 0xFE#8 0xFF#8 (List.replicate 13 0xFF#8)).wellFormed = true ∧
    (Instr.ipktRead 0xFF#8 0#8 0xFF#8).wellFormed = true ∧ (Instr.ipktRegWrite 0#8 0#8 []).wellFormed = true ∧
    (Instr.ipktReserved 0#8 1#8 (List.replicate 14 0#8)).wellFormed = true ∧ Instr.setGoal.wellFormed = true ∧
    (Instr.reservedOp 0xFF#8).wellFormed = true ∧
    (Instr.spkt 0#8 0#8 0xFF#8 9#8 7#8 (List.replicate 14 0#8) 5#8).wellFormed = true := by decide

/-- For DecodedPacketsAreEncodings. -/
theorem witness_decoded_packets :
    decode .lineOut [0xFF#8, 0xFF#8, 0xFE#8, 0x02#8, 0x04#8, 0xFB#8, 0x55#8] = .ok (.ipktAction, [0x55#8]) := by decide

/-- For ChecksumRoundTrip. -/
theorem witness_checksum_round_trip : (List.replicate 14 0xFF#8 : List Byte).length ≤ 14 := by decide

/-- For StepRunsHostOperation. -/
theorem witness_step_runs_host_operation :
    let s : State := { ready with events := [.hostWrite 13#7 0x20#32, .drain] }
    s.events = .hostWrite 13#7 0x20#32 :: [.drain] ∧ s.rst = false ∧
      decode .host [(0x20#32 : Word).setWidth 8] = .ok (.read, []) := by decide

/-- For StepRunsInstructionPacket. -/
theorem witness_step_runs_packet :
    let s : State := { onLine servo with
      events := [.actuators],
      bus := { (onLine servo).bus with wire := [0xFF#8, 0xFF#8, 0xFE#8, 0x02#8, 0x04#8, 0xFB#8, 0xFF#8] } }
    s.events = .actuators :: [] ∧ decode .lineOut s.bus.wire = .ok (.ipktAction, [0xFF#8]) := by decide

/-- A `GET_VOLTAGE` whose seventh and last reply byte is in the queue. -/
def lastByte : State :=
  { awaiting 0x42#8 with
    rxq := [0x83#8], nexp := 1, rxn := 7, rxi := 6, txn := 8, txi := 8, tgt := 1#8, events := [.rx],
    rxbuf := fill (Vector.replicate 20 0#8) 0 [0xFF#8, 0xFF#8, 1#8, 3#8, 0#8, 0x78#8] }

/-- For StepRunsStatusPacket. -/
theorem witness_step_runs_status_packet :
    lastByte.events = .rx :: [] ∧ lastByte.rst = false ∧ lastByte.pc = .rxb ∧ lastByte.rxq = 0x83#8 :: [] ∧
      lastByte.op ≠ 0x11#8 ∧ lastByte.rxi + 1 = lastByte.rxn ∧
      decode (.lineIn lastByte.nexp) (lastByte.rxbuf.setIfInBounds lastByte.rxi 0x83#8).toList =
        .ok (.spkt 0xFF#8 0xFF#8 1#8 3#8 0#8 [0x78#8] 0x83#8, List.replicate 13 0#8) := by decide

/-- The invariant holds of a core in the middle of an operation, so it is not empty. -/
theorem lastByte_inv : MachineInv lastByte where
  busyPhase := by decide
  notBoth := by decide
  lineIn := by decide
  cfgReserved := by decide
  flagsReserved := by decide
  ccCode := by decide
  queue := by decide
  frame := by decide
  sending := by decide
  expected := by decide
  reply := by decide
  receiving := by decide
  transactions := by decide
  count := by decide
  target := by decide
  device := by decide
  abortRunning := by decide
  running := fun _ => by unfold isOperation; decide
  rawReceive := by decide
  rawTransmit := by decide
  underReset := by decide
  memories := by intro a h; cases h
  stagedRanges := by intro a h; cases h

/-- For StepKeepsInvariant, ResultWrittenOnlyByGetters and OperationsEndThroughCompletion. -/
theorem witness_step_keeps_invariant :
    MachineInv lastByte ∧
      ∃ t, step lastByte = .next t ∧ t.result ≠ lastByte.result ∧ lastByte.busy = true ∧ t.busy = false :=
  ⟨lastByte_inv, _, rfl, by decide, by decide, by decide⟩

/-- For OnlyTheHostWritesOperands and QueueLosesOnlyItsHead. -/
theorem witness_whole_machine_rules :
    (∀ es, lastByte.events ≠ .setRst true :: es) ∧
      (∀ r v es, lastByte.events = .hostWrite r v :: es → r = 13#7) ∧
      ∃ t, step lastByte = .next t ∧ t.rxq = lastByte.rxq.drop 1 ++ [] :=
  ⟨fun _ h => (by cases h), fun _ _ _ h => (by cases h), _, rfl, by decide⟩

/-- For ResetInput. -/
theorem witness_reset_input :
    let s : State := { lastByte with events := [.setRst true] }
    let r : State := { ready with rst := true, events := [.line 1#8] }
    let q : State := { ready with rst := true, events := [.reply], bus := { ready.bus with reply := [0xFF#8, 1#8] } }
    let f : State := { ready with rst := true, events := [.setRst false] }
    s.events = .setRst true :: [] ∧ f.events = .setRst false :: [] ∧ (r.rst = true ∧ r.events = .line 1#8 :: []) ∧
      (q.rst = true ∧ q.events = .reply :: [] ∧ q.bus.reply.tail = [1#8]) := by decide

/-! ### Acceptance, at the ends of each range -/

/-- For LinkOperationsAccepted. -/
theorem witness_link_operations_accepted :
    let s : State := { ready with cmdCount := 1#8 }
    let t : State := { ready with cmdCount := 14#8 }
    (s.busy = false ∧ s.cmdFlags = 0#8 ∧ 1 ≤ s.cmdCount.toNat ∧ s.cmdCount.toNat ≤ 14) ∧
    (t.busy = false ∧ t.cmdFlags = 0#8 ∧ 1 ≤ t.cmdCount.toNat ∧ t.cmdCount.toNat ≤ 14) := by decide

/-- For ReadAndTriggerAccepted. -/
theorem witness_read_accepted :
    let s : State := { ready with cmdId := 253#8, cmdCount := 14#8 }
    let t : State := { ready with cmdId := 0#8, cmdCount := 0#8 }
    (s.busy = false ∧ s.cmdFlags = 0#8 ∧ s.cmdId.toNat ≤ 253 ∧ s.cmdCount.toNat ≤ 14) ∧
    (t.busy = false ∧ t.cmdFlags = 0#8 ∧ t.cmdId.toNat ≤ 253 ∧ t.cmdCount.toNat ≤ 14) := by decide

/-- For WriteAccepted. -/
theorem witness_write_accepted :
    let s : State := { ready with cmdId := 254#8, cmdFlags := 1#8, cmdCount := 13#8 }
    let t : State := { ready with cmdId := 0#8, cmdFlags := 0#8, cmdCount := 1#8 }
    (s.busy = false ∧ (s.cmdFlags = 0#8 ∨ s.cmdFlags = 1#8) ∧ s.cmdId.toNat ≤ 254 ∧ 1 ≤ s.cmdCount.toNat ∧
      s.cmdCount.toNat ≤ 13) ∧
    (t.busy = false ∧ (t.cmdFlags = 0#8 ∨ t.cmdFlags = 1#8) ∧ t.cmdId.toNat ≤ 254 ∧ 1 ≤ t.cmdCount.toNat ∧
      t.cmdCount.toNat ≤ 13) := by decide

/-- For SetGoalAccepted. -/
theorem witness_set_goal_accepted :
    let s : State := { ready with cmdFlags := 3#8, devId := 253#8, val := 23592960#32 }
    let t : State := { ready with cmdFlags := 0#8, devId := 254#8, val := 0#32 }
    (s.busy = false ∧ s.cmdFlags &&& 0xFC#8 = 0#8 ∧ s.devId ≠ 0xFF#8 ∧
      (s.cmdFlags.getLsbD 1 = true → s.devId ≠ 0xFE#8) ∧ 0 ≤ s.val.toInt ∧ s.val.toInt ≤ 23592960) ∧
    (t.busy = false ∧ t.cmdFlags &&& 0xFC#8 = 0#8 ∧ t.devId ≠ 0xFF#8 ∧
      (t.cmdFlags.getLsbD 1 = true → t.devId ≠ 0xFE#8) ∧ 0 ≤ t.val.toInt ∧ t.val.toInt ≤ 23592960) := by decide

/-- For AngleLimitsAccepted, SpeedAndTorqueAccepted and ModeAndIdAccepted. -/
theorem witness_setters_accepted :
    let a : State := { ready with devId := 254#8, val := 23592960#32 }
    let b : State := { ready with val := 0xFFFF0000#32 }
    let c : State := { ready with val := 65536#32 }
    let d : State := { ready with val := 1#32 }
    let e : State := { ready with cmdId := 254#8, val := 253#32 }
    (a.busy = false ∧ a.cmdFlags = 0#8 ∧ a.devId ≠ 0xFF#8 ∧ 0 ≤ a.val.toInt ∧ a.val.toInt ≤ 23592960) ∧
    (b.busy = false ∧ b.cmdFlags = 0#8 ∧ b.devId ≠ 0xFF#8 ∧ -65536 ≤ b.val.toInt ∧ b.val.toInt ≤ 65536) ∧
    (c.busy = false ∧ c.cmdFlags = 0#8 ∧ c.devId ≠ 0xFF#8 ∧ 0 ≤ c.val.toInt ∧ c.val.toInt ≤ 65536) ∧
    (d.busy = false ∧ d.cmdFlags = 0#8 ∧ d.devId ≠ 0xFF#8 ∧ (d.val = 0#32 ∨ d.val = 1#32)) ∧
    (e.busy = false ∧ e.cmdFlags = 0#8 ∧ e.cmdId ≠ 0xFF#8 ∧ 0 ≤ e.val.toInt ∧ e.val.toInt ≤ 253) := by decide

/-- For GettersAccepted and ReservedOpcodeCompletes. -/
theorem witness_getters_accepted :
    let s : State := { ready with devId := 253#8, cfg := 1#8 }
    s.busy = false ∧ s.cmdFlags = 0#8 ∧ s.devId.toNat ≤ 253 ∧ s.cfg.getLsbD 0 = true := by decide

/-! ### Refusals: each check alone, at the end of its range -/

/-- For LinkAndRegisterRefusals. -/
theorem witness_link_and_register_refusals :
    let bad : State := { ready with cmdFlags := 4#8 }
    let long : State := { ready with cmdCount := 15#8 }
    let none : State := { ready with cmdCount := 0#8 }
    let noId : State := { ready with cmdId := 0xFF#8 }
    let all : State := { ready with cmdId := 0xFE#8 }
    (bad.busy = false ∧ bad.cmdFlags ≠ 0#8 ∧ bad.cmdFlags &&& 0xFE#8 ≠ 0#8) ∧
    (long.busy = false ∧ long.cmdFlags = 0#8 ∧ long.cmdId ≠ 0xFF#8 ∧ long.cmdId ≠ 0xFE#8 ∧
      14 < long.cmdCount.toNat) ∧
    (none.busy = false ∧ none.cmdFlags = 0#8 ∧ none.cmdCount = 0#8) ∧
    (noId.busy = false ∧ noId.cmdFlags = 0#8 ∧ noId.cmdId = 0xFF#8) ∧
    (all.busy = false ∧ all.cmdFlags = 0#8 ∧ all.cmdId = 0xFE#8) ∧
    13 < ({ ready with cmdCount := 14#8 } : State).cmdCount.toNat := by decide

/-- For SetterRefusals. -/
theorem witness_setter_refusals :
    let bad : State := { ready with cmdFlags := 4#8 }
    let noId : State := { ready with devId := 0xFF#8, cmdId := 0xFF#8 }
    let all : State := { ready with devId := 0xFE#8, cmdFlags := 2#8 }
    let below : State := { ready with val := 0xFFFFFFFF#32 }
    let above : State := { ready with val := 23592961#32 }
    (bad.busy = false ∧ bad.cmdFlags ≠ 0#8 ∧ bad.cmdFlags &&& 0xFC#8 ≠ 0#8) ∧
    (noId.busy = false ∧ noId.cmdFlags = 0#8 ∧ noId.devId = 0xFF#8 ∧ noId.cmdId = 0xFF#8) ∧
    (all.busy = false ∧ all.cmdFlags &&& 0xFC#8 = 0#8 ∧ all.cmdFlags.getLsbD 1 = true ∧ all.devId = 0xFE#8) ∧
    (below.busy = false ∧ below.cmdFlags = 0#8 ∧ below.devId ≠ 0xFF#8 ∧ below.cmdId ≠ 0xFF#8 ∧
      below.val.toInt < 0) ∧
    (above.busy = false ∧ above.cmdFlags = 0#8 ∧ above.devId ≠ 0xFF#8 ∧ 23592960 < above.val.toInt) ∧
    (0xFFFEFFFF#32 : Word).toInt < -65536 ∧ 65536 < (65537#32 : Word).toInt ∧ 1 < (2#32 : Word).toInt ∧
    253 < (254#32 : Word).toInt := by decide

/-- For GetterRefusals. -/
theorem witness_getter_refusals :
    let bad : State := { ready with cmdFlags := 1#8 }
    let noId : State := { ready with devId := 0xFF#8 }
    let all : State := { ready with devId := 0xFE#8 }
    (bad.busy = false ∧ bad.cmdFlags ≠ 0#8) ∧ (noId.busy = false ∧ noId.cmdFlags = 0#8 ∧ noId.devId = 0xFF#8) ∧
    (all.busy = false ∧ all.cmdFlags = 0#8 ∧ all.devId = 0xFE#8) ∧
    (ready.busy = false ∧ ready.cmdFlags = 0#8 ∧ ready.devId ≠ 0xFF#8 ∧ ready.devId ≠ 0xFE#8 ∧
      ready.cfg.getLsbD 0 = false) := by decide

/-! ### The register port and the link -/

/-- For RegistersLockedWhileBusy. -/
theorem witness_locked :
    let s : State := { lastByte with events := [.hostWrite 45#7 1#32] }
    s.events = .hostWrite 45#7 1#32 :: [] ∧ s.busy = true ∧
      (∀ r ∈ [(0#7 : BitVec 7), 5#7, 7#7, 13#7, 15#7, 32#7, 45#7],
        (r.toNat ≤ 15 ∧ r.toNat ≠ 6) ∨ (32 ≤ r.toNat ∧ r.toNat ≤ 45)) := by decide

/-- For ReservedRegisters. -/
theorem witness_reserved_registers :
    let s : State := { ready with events := [.hostWrite 127#7 1#32] }
    s.events = .hostWrite 127#7 1#32 :: [] ∧
      (∀ r ∈ [(7#7 : BitVec 7), 14#7, 15#7, 46#7, 47#7, 62#7, 63#7, 23#7, 31#7, 84#7, 95#7, 116#7, 127#7],
        r.toNat ∈ [7, 14, 15, 46, 47, 62, 63] ∨ (23 ≤ r.toNat ∧ r.toNat ≤ 31) ∨ (84 ≤ r.toNat ∧ r.toNat ≤ 95) ∨
          116 ≤ r.toNat) ∧
      (∀ r ∈ [(7#7 : BitVec 7), 14#7, 15#7, 46#7, 47#7, 17#7, 31#7, 48#7, 61#7, 64#7, 115#7, 127#7],
        r.toNat ∈ [7, 14, 15, 46, 47] ∨ (17 ≤ r.toNat ∧ r.toNat ≤ 31) ∨ 48 ≤ r.toNat) := by decide

/-- For HostWrites: each range of registers at its ends, with the core idle and, for `CTRL` and `STATUS`, running. -/
theorem witness_host_writes :
    (∀ r ∈ [(0#7 : BitVec 7), 5#7, 6#7, 8#7, 12#7, 16#7, 32#7, 45#7],
      let s : State := { ready with events := [.hostWrite r 0xFFFFFFFF#32] }
      s.rst = false ∧ s.busy = false ∧ s.events = .hostWrite r 0xFFFFFFFF#32 :: []) ∧
    BitVec.ofNat 7 (32 + 0) = 32#7 ∧ BitVec.ofNat 7 (32 + 13) = 45#7 ∧
    (∀ r ∈ [(6#7 : BitVec 7), 16#7],
      let t : State := { lastByte with events := [.hostWrite r 0x31#32], ovr := true, lbMismatch := true }
      t.rst = false ∧ t.events = .hostWrite r 0x31#32 :: []) := by decide

/-- For HostReadsAndPorts. -/
theorem witness_host_reads :
    let s : State := { lastByte with cfg := 8#8, events := [.hostRead 127#7] }
    s.events = .hostRead 127#7 :: [] ∧ (s.rxq ≠ [] ∧ rxIrq s = false ∧ busyPort s = true) := by decide

/-- A `WRITE` that sends byte 3 of 9. -/
def sendingByte : State :=
  { ready with op := 0x21#8, busy := true, pc := .txb, txn := 9, txi := 3, tgt := 1#8, events := [.tx []] }

/-- For TransmitWithoutLoopBack and LineCarriesOnlyTheFrame. -/
theorem witness_transmit :
    sendingByte.events = .tx [] :: [] ∧ sendingByte.rst = false ∧ sendingByte.pc = .txb ∧
      sendingByte.cfg.getLsbD 1 = false ∧ sendingByte.txi + 1 < sendingByte.txn ∧
      (∃ t, step sendingByte = .next t ∧
        t.bus.sent = sendingByte.bus.sent ++ [byteAt sendingByte.txbuf sendingByte.txi]) :=
  ⟨by decide, by decide, by decide, by decide, by decide, _, rfl, by decide⟩

/-- For LastByteOfFrame. -/
theorem witness_last_byte_of_frame :
    let s : State := { sendingByte with txi := 8 }
    s.events = .tx [] :: [] ∧ s.rst = false ∧ s.pc = .txb ∧ s.cfg.getLsbD 1 = false ∧ s.txi + 1 = s.txn := by decide

/-- For the clauses of FrameSent, which LastByteOfFrame and LoopBackDrain state. -/
theorem witness_frame_sent :
    let s : State := { sendingByte with txi := 9 }
    let all (op : Byte) (sub : Nat) : State := { s with op := op, tgt := 0xFE#8, sub := sub }
    ({ s with op := 0x10#8 } : State).op = 0x10#8 ∧ (s.op ≠ 0x10#8 ∧ s.tgt ≠ 0xFE#8) ∧
      ((all 0x21#8 0).tgt = 0xFE#8 ∧
        (all 0x21#8 0).op ∈ [0x21#8, 0x22#8, 0x31#8, 0x32#8, 0x33#8, 0x34#8, 0x35#8, 0x37#8]) ∧
      ((all 0x30#8 0).tgt = 0xFE#8 ∧ (all 0x30#8 0).op = 0x30#8 ∧ (all 0x30#8 0).cmdFlags.getLsbD 1 = false) ∧
      (∀ k ∈ [0, 1, 2], (all 0x36#8 k).tgt = 0xFE#8 ∧ (all 0x36#8 k).op = 0x36#8 ∧ (all 0x36#8 k).sub = k) := by
  decide

/-- For TransmitWithLoopBack: the byte itself, silence, and two colliding bytes at a full queue. -/
theorem witness_loop_back :
    ∀ heard ∈ [[0#8], [], [1#8, 2#8]],
      let s : State := { sendingByte with cfg := 2#8, rxq := List.replicate 32 0#8, events := [.tx heard] }
      s.events = .tx heard :: [] ∧ s.rst = false ∧ s.pc = .txb ∧ s.cfg.getLsbD 1 = true := by decide

/-- For LoopBackDrain: a byte in the middle and the last one. -/
theorem witness_loop_back_drain :
    let d : State := { sendingByte with cfg := 2#8, pc := .lbd, rxq := [0x41#8], events := [.drain] }
    let l : State := { d with txi := 8 }
    (d.events = .drain :: [] ∧ d.rst = false ∧ d.pc = .lbd ∧ d.rxq = 0x41#8 :: [] ∧ d.txi + 1 < d.txn) ∧
    (l.events = .drain :: [] ∧ l.rst = false ∧ l.pc = .lbd ∧ l.rxq = 0x41#8 :: [] ∧ l.txn ≤ l.txi + 1) := by decide

/-- For CaptureAndOverrun. -/
theorem witness_capture :
    let s : State := { ready with rxq := List.replicate 31 0#8, events := [.line 1#8] }
    let t : State := { ready with rxq := List.replicate 32 0#8, events := [.line 1#8] }
    let u : State := { ready with dir := .output, events := [.line 1#8] }
    (s.events = .line 1#8 :: [] ∧ s.rst = false ∧ s.dir = .input ∧ s.rxq.length < 32) ∧
    (t.events = .line 1#8 :: [] ∧ t.rst = false ∧ t.dir = .input ∧ 32 ≤ t.rxq.length) ∧
    (u.events = .line 1#8 :: [] ∧ u.rst = false ∧ u.dir = .output ∧ u.cfg.getLsbD 1 = false) ∧
    (let r : State := { t with events := [.reply], bus := { t.bus with reply := [0xFF#8, 2#8] } }
     r.events = .reply :: [] ∧ r.rst = false ∧ r.bus.reply = 0xFF#8 :: [2#8] ∧ r.dir = .input ∧ 32 ≤ r.rxq.length) ∧
    (let n : State := { t with events := [.reply] }
     n.events = .reply :: [] ∧ n.bus.reply = []) := by decide

/-- For LinkRxReturnsByte. -/
theorem witness_link_rx_returns_byte :
    let s : State := { awaiting 0x11#8 with rxq := [0x7E#8], rxn := 1, events := [.rx] }
    s.events = .rx :: [] ∧ s.rst = false ∧ s.pc = .rxb ∧ s.rxq = 0x7E#8 :: [] ∧ s.op = 0x11#8 := by decide

/-- For ReceivePhase. -/
theorem witness_receive_phase :
    let s : State := { awaiting 0x42#8 with pc := .settle, events := [.settled] }
    let t : State := { lastByte with rxi := 0, rxq := [0xFF#8] }
    (s.events = .settled :: [] ∧ s.rst = false ∧ s.pc = .settle) ∧
    (t.events = .rx :: [] ∧ t.rst = false ∧ t.pc = .rxb ∧ t.rxq = 0xFF#8 :: [] ∧ t.op ≠ 0x11#8 ∧
      t.rxi + 1 ≠ t.rxn) := by decide

/-- For WaitsAndTicks: a timeout, an abort in the settle interval with bytes queued, a wait nothing ends, and ticks at
the largest count. -/
theorem witness_waits :
    let s : State := { lastByte with rxq := [], timeout := 1#32, events := [.timeout] }
    let t : State := { lastByte with pc := .settle, rxq := [1#8, 2#8], abortReq := true, events := [.abort] }
    let u : State := { lastByte with rxq := [], events := [.rx] }
    let w : State := { lastByte with waitCnt := 0xFFFFFFFF#32, events := [.ticks 1] }
    (s.events = .timeout :: [] ∧ s.rst = false ∧ s.rxq = [] ∧ s.pc = .rxb ∧ s.timeout ≠ 0#32) ∧
    (t.events = .abort :: [] ∧ t.rst = false ∧ t.abortReq = true ∧ t.pc = .settle ∧ t.rxq ≠ []) ∧
    (u.events = .rx :: [] ∧ u.rst = false ∧ u.rxq = [] ∧ u.timeout = 0#32 ∧ u.abortReq = false ∧ u.pc = .rxb) ∧
    (w.events = .ticks 1 :: [] ∧ w.rst = false ∧ w.pc = .rxb ∧ min (w.waitCnt.toNat + 1) 4294967295 = 4294967295) := by
  decide

/-! ### What follows a status packet -/

/-- For PlainOperationsComplete, GettersScaleTheReply, SetGoalAfterWrite and SetModeSequence. -/
theorem witness_after_status_packet :
    (awaiting 0x21#8).op ∈ [0x20#8, 0x21#8, 0x22#8, 0x31#8, 0x32#8, 0x33#8, 0x34#8, 0x35#8, 0x37#8] ∧
    ((awaiting 0x40#8).op = 0x40#8 ∧ (awaiting 0x41#8).op = 0x41#8 ∧ (awaiting 0x42#8).op = 0x42#8 ∧
      (awaiting 0x43#8).op = 0x43#8 ∧ (awaiting 0x44#8).op = 0x44#8) ∧
    ((awaiting 0x30#8).op = 0x30#8 ∧ (awaiting 0x30#8).sub = 0 ∧ (awaiting 0x30#8).cmdFlags.getLsbD 1 = false ∧
      ({ awaiting 0x30#8 with cmdFlags := 2#8 } : State).cmdFlags.getLsbD 1 = true) ∧
    ((awaiting 0x36#8).op = 0x36#8 ∧ (awaiting 0x36#8).sub = 0 ∧ ({ awaiting 0x36#8 with sub := 1 } : State).sub = 1 ∧
      ({ awaiting 0x36#8 with sub := 2 } : State).sub = 2) := by decide

/-- For SetGoalAfterPoll. -/
theorem witness_set_goal_after_poll :
    let s : State := { awaiting 0x30#8 with cmdFlags := 2#8, sub := 1, pollcnt := 0xFFFE#16, pollLimit := 0xFFFF#16 }
    let t : State := { s with pollLimit := 0#16 }
    let u : State := { s with pollcnt := 0#16 }
    (s.op = 0x30#8 ∧ s.cmdFlags.getLsbD 1 = true ∧ s.sub ≠ 0 ∧ s.pollcnt ≠ 0xFFFF#16 ∧ s.pollLimit ≠ 0#16 ∧
      s.pollcnt + 1#16 = s.pollLimit) ∧
    (t.op = 0x30#8 ∧ t.sub ≠ 0 ∧ t.pollLimit = 0#16) ∧
    (u.op = 0x30#8 ∧ u.sub ≠ 0 ∧ u.pollcnt + 1#16 ≠ u.pollLimit) := by decide

/-- For EncodersOnTheirDomains and SplitJoinAndResultRanges. -/
theorem witness_scaling :
    ((0 : Int) ≤ 23592960 ∧ (23592960 : Int) ≤ 23592960 ∧ 1 ≤ encAngle 2881) ∧
    ((-65536 : Int) ≤ 65536 ∧ (-65536 : Int) ≤ -65536) ∧ 65535 < 65536 := by decide

/-! ### The actuators -/

/-- For ReadPacketAnswered: two bytes, the last register, and 253 and 254 bytes of an actuator with flat ranges. -/
theorem witness_read_packet_answered :
    let flat : Actuator := { servo with flatRanges := true }
    (onLine servo).bus.actuators.filter (fun a => a.id == 1#8) = [servo] ∧ (1#8 : Byte) ≠ 0xFE#8 ∧
      ((2#8 : Byte) ≠ 0#8 ∧ (0x1E#8 : Byte).toNat + (2#8 : Byte).toNat ≤ 256 ∧
        crossesRegister servo.hr (0x1E#8 : Byte).toNat (2#8 : Byte).toNat = false) ∧
      ((0xFF#8 : Byte).toNat + (1#8 : Byte).toNat ≤ 256 ∧ crossesRegister servo.hr 255 1 = false) ∧
      ((onLine flat).bus.actuators.filter (fun a => a.id == 1#8) = [flat] ∧ flat.flatRanges = true ∧
        (253#8 : Byte).toNat ≤ 253 ∧ (0#8 : Byte).toNat + (253#8 : Byte).toNat ≤ 256 ∧
        253 < (254#8 : Byte).toNat ∧ (0#8 : Byte).toNat + (254#8 : Byte).toNat ≤ 256) := by decide

/-- For WritePacketStored and StagedWriteRecorded: two bytes, and the start register alone. -/
theorem witness_write_packet_stored :
    (∀ data ∈ [[], [0xAA#8, 0x06#8]], ∀ a ∈ (onLine servo).bus.actuators, reaches 1#8 a = true → a.staged = none ∧
      (0x1E#8 : Byte).toNat + (data : List Byte).length ≤ 256 ∧
        (a.flatRanges = true ∨ crossesRegister a.hr (0x1E#8 : Byte).toNat data.length = false)) ∧
    (onLine servo).bus.actuators.filter (fun a => a.id == 1#8) = [servo] ∧
    reaches 1#8 servo = true ∧ reaches 7#8 servo = false ∧ reaches 0xFE#8 servo = true ∧
    (let held : Actuator := { servo with staged := some (0x1E#8, [0x00#8, 0x04#8]) }
     (onLine held).bus.actuators = [held] ∧ reaches 1#8 held = true ∧
      ((0x20#8 : Byte).toNat + [1#8, 2#8].length ≤ 256 ∧
        crossesRegister held.hr (0x20#8 : Byte).toNat [1#8, 2#8].length = false) ∧
      (∀ x ∈ [0x20, 0x21], ¬((0x1E#8 : Byte).toNat ≤ x ∧ x < (0x1E#8 : Byte).toNat + [0x00#8, 0x04#8].length))) := by
  decide

/-- The actuator of program P2 after its first wait. -/
def holding : Actuator := { servo with staged := some (0x1E#8, [0x00#8, 0x04#8]) }

/-- For TriggerAppliesStagedWrites. -/
theorem witness_trigger_applies :
    (onLine holding).bus.actuators = [holding] ∧ holding.staged = some (0x1E#8, [0x00#8, 0x04#8]) ∧
      (0x1E#8 : Byte).toNat + [0x00#8, 0x04#8].length ≤ 256 ∧
      crossesRegister holding.hr (0x1E#8 : Byte).toNat [0x00#8, 0x04#8].length = false := by decide

/-- For PacketsWithoutMeaningStop: each form, and no range that ends at 256 past the end. -/
theorem witness_packets_without_meaning :
    let past : Actuator := { servo with staged := some (0xFF#8, [0#8, 0#8]) }
    let across : Actuator := { servo with staged := some (0x1F#8, [0#8, 0#8]) }
    let two : State := { ready with bus := { ready.bus with actuators := [servo, { holding with id := 2#8 }] } }
    ((onLine servo).bus.actuators.filter (fun a => a.id == 1#8) = [servo] ∧ (1#8 : Byte) ≠ 0xFE#8) ∧
    ((2#8 : Byte) ≠ 0#8 ∧ 256 < (0xFF#8 : Byte).toNat + (2#8 : Byte).toNat ∧
      ¬256 < (0xFE#8 : Byte).toNat + (2#8 : Byte).toNat) ∧
    ((0x1E#8 : Byte).toNat + (4#8 : Byte).toNat ≤ 256 ∧ servo.flatRanges = false ∧
      crossesRegister servo.hr (0x1E#8 : Byte).toNat (4#8 : Byte).toNat = true) ∧
    (∃ b ∈ (onLine servo).bus.actuators, reaches 1#8 b = true ∧ b.flatRanges = false ∧
      crossesRegister b.hr (0x1E#8 : Byte).toNat [0#8, 0#8, 0#8].length = true) ∧
    (∀ b ∈ (onLine servo).bus.actuators, reaches 1#8 b = true → b.staged = none) ∧
    ((∃ b ∈ two.bus.actuators, reaches 0xFE#8 b = true ∧ b.staged ≠ none) ∧
      (∀ b ∈ two.bus.actuators, reaches 0xFE#8 b = true → (0x1E#8 : Byte).toNat + [0#8, 4#8].length ≤ 256 ∧
        (b.flatRanges = true ∨ crossesRegister b.hr (0x1E#8 : Byte).toNat [0#8, 4#8].length = false))) ∧
    ((onLine past).bus.actuators = [past] ∧ past.staged = some (0xFF#8, [0#8, 0#8]) ∧
      256 < (0xFF#8 : Byte).toNat + [0#8, 0#8].length) ∧
    ((onLine across).bus.actuators = [across] ∧ across.staged = some (0x1F#8, [0#8, 0#8]) ∧
      (0x1F#8 : Byte).toNat + [0#8, 0#8].length ≤ 256 ∧ across.flatRanges = false ∧
      crossesRegister across.hr (0x1F#8 : Byte).toNat [0#8, 0#8].length = true) ∧
    (∃ b ∈ (onLine servo).bus.actuators, reaches 1#8 b = true) ∧
    (∀ b ∈ (onLine servo).bus.actuators, reaches 7#8 b = false) := by decide

/-- An idle core, the servo attached, and these bytes on the line for the actuators to act on. -/
def withWire (wire : List Byte) : State :=
  { onLine servo with events := [.actuators], bus := { (onLine servo).bus with wire := wire } }

/-- For BytesThatAreNoPacket: noise, a frame under way, one for an absent ID, and one of each kind for the servo. -/
theorem witness_bytes_that_are_no_packet :
    (withWire [0x41#8]).events = .actuators :: [] ∧ (withWire [0x41#8]).bus.wire ≠ [] ∧
    decode .lineOut (withWire [0x41#8]).bus.wire = .error .badHeader ∧
    (let u : State := { withWire [0xFF#8, 0xFF#8, 1#8] with pc := .txb }
     decode .lineOut u.bus.wire = .error .truncated ∧ u.pc = .txb) ∧
    (let u : State := withWire [0xFF#8, 0xFF#8, 7#8, 2#8, 4#8, 0#8]
     decode .lineOut u.bus.wire = .error .badChecksum ∧ u.bus.wire[2]? = some 7#8 ∧
      (∀ b ∈ u.bus.actuators, reaches 7#8 b = false)) ∧
    (let u : State := withWire [0xFF#8, 0xFF#8, 1#8]
     decode .lineOut u.bus.wire = .error .truncated ∧ u.bus.wire[2]? = some 1#8 ∧ u.pc ≠ .txb ∧ u.pc ≠ .lbd ∧
      (∃ b ∈ u.bus.actuators, reaches 1#8 b = true)) ∧
    decode .lineOut (withWire [0xFF#8, 0xFF#8, 1#8, 2#8, 4#8, 0xF8#8]).bus.wire = .error .triggerNotBroadcast ∧
    decode .lineOut (withWire [0xFF#8, 0xFF#8, 1#8, 2#8, 4#8, 0#8]).bus.wire = .error .badChecksum := by decide

/-- For BytesThatAreNoPacket: a whole frame without meaning for an absent ID, and a header
alone, with an actuator attached and with none. -/
theorem witness_bytes_that_bound_a_frame :
    (let u : State := withWire [0xFF#8, 0xFF#8, 7#8, 2#8, 2#8, 0xF4#8]
     decode .lineOut u.bus.wire = .error .badParams ∧ u.bus.wire[2]? = some 7#8 ∧ u.bus.wire[3]? = some 2#8 ∧
      (∀ b ∈ u.bus.actuators, reaches 7#8 b = false)) ∧
    (let u : State := withWire [0xFF#8, 0xFF#8]
     decode .lineOut u.bus.wire = .error .truncated ∧ u.bus.wire[2]? = none ∧ u.bus.actuators ≠ [] ∧
      u.pc ≠ .txb ∧ u.pc ≠ .lbd) ∧
    ready.bus.actuators = [] := by decide

/-- For EnvironmentEvents. -/
theorem witness_environment_events :
    (∀ e ∈ [Event.attach 2#8 false true, .actuatorSets 0 3#8 9#8, .actuatorFault 0 4#8],
      ({ onLine servo with events := [e] } : State).events = e :: []) ∧
    (onLine servo).bus.actuators[0]? = some servo ∧
    (let s : State := { sendingByte with events := [.replyLost], bus := { ready.bus with reply := [1#8, 2#8] } }
     s.events = .replyLost :: [] ∧ s.rst = false ∧ s.pc = .txb ∧ s.bus.reply.tail = [2#8]) := by decide

/-- For OnlyAddressedActuatorsReply. -/
theorem witness_only_addressed_reply :
    (∀ a ∈ (onLine servo).bus.actuators, a.id ≠ 7#8) ∧
      (∃ t, exec (.ipktWrite 7#8 0x1E#8 [1#8]) (onLine servo) = .next t) ∧
      (∃ t, exec (.ipktRegWrite 0xFE#8 0x1E#8 [1#8]) (onLine servo) = .next t) :=
  ⟨by decide, ⟨_, rfl⟩, ⟨_, rfl⟩⟩

/-! ### Whole operations -/

/-- For WholeRead, WholeGetCurrent, WholeBroadcastWrite and WholeLoopBackTransmit. -/
theorem witness_whole_operations :
    let s : State := { ready with cmdId := 253#8, cmdCount := 14#8 }
    let c : State := { ready with cfg := 1#8, devId := 253#8 }
    let w : State := { ready with cmdId := 0xFE#8, cmdFlags := 1#8, cmdCount := 13#8 }
    let l : State := { ready with cfg := 2#8, cmdCount := 14#8 }
    (s.rst = false ∧ s.busy = false ∧ s.dir = .input ∧ s.rxq = [] ∧ s.cfg.getLsbD 1 = false ∧ s.cmdFlags = 0#8 ∧
      s.cmdId.toNat ≤ 253 ∧ s.cmdCount.toNat ≤ 14 ∧
      (List.replicate 20 0#8 : List Byte).length = 6 + s.cmdCount.toNat) ∧
    (c.rst = false ∧ c.busy = false ∧ c.dir = .input ∧ c.rxq = [] ∧ c.cfg.getLsbD 1 = false ∧
      c.cfg.getLsbD 0 = true ∧ c.cmdFlags = 0#8 ∧ c.devId.toNat ≤ 253 ∧
      [0xFF#8, 0xFF#8, 1#8, 4#8, 0#8, 0x63#8, 0x09#8, 0x8E#8].length = 8) ∧
    (w.rst = false ∧ w.busy = false ∧ w.cfg.getLsbD 1 = false ∧ (w.cmdFlags = 0#8 ∨ w.cmdFlags = 1#8) ∧
      w.cmdId = 0xFE#8 ∧ 1 ≤ w.cmdCount.toNat ∧ w.cmdCount.toNat ≤ 13) ∧
    (l.rst = false ∧ l.busy = false ∧ l.rxq = [] ∧ l.cfg.getLsbD 1 = true ∧ l.cmdFlags = 0#8 ∧
      1 ≤ l.cmdCount.toNat ∧ l.cmdCount.toNat ≤ 14) := by decide

end Sys2Proof.Tests
end

section
/-! SUPPORT. What an operation can leave, said once: a write of `OP` (R140), the operation's own rule after a
transaction (`next` of R149), and a packet the attached actuators act on. Every rule about all steps is read off these. -/

namespace Sys2Proof.Machine

/-! ### The word of `OP` -/

/-- A value of `OP` is the encoding of what it names (R74, R75). -/
theorem encode_decodeOp (op : Byte) : encode (decodeOp op) = [op] := by
  revert op
  decide

/-- The value of `OP` that names a given operation (R75). -/
theorem singleton_eq_encode {op : Byte} {i : Instr} (h : decodeOp op = i) : [op] = encode i := by
  rw [← h, encode_decodeOp]

/-! ### One value of an actuator -/

/-- No register of R115 is wider than two bytes. -/
theorem regmap_width {attr : Attr} {hr : Bool} {addr : Byte} {width : Nat} (h : regmap attr hr = some (addr, width)) :
    width ≤ 2 := by
  cases attr
  case current => cases hr <;> simp_all [regmap]
  all_goals simp only [regmap, Option.some.injEq, Prod.mk.injEq] at h; omega

/-- The write of one value loads one short frame, or ends where the family has no such register (R115, R160). -/
theorem setAttr_cases (t : Byte) (attr : Attr) (raw : Nat) (isStaged : Bool) (s : State) :
    (∃ instr params, params.length ≤ 3 ∧ setAttr t attr raw isStaged s = transact t instr params 0 s) ∨
      setAttr t attr raw isStaged s = complete .unsupported s := by
  unfold setAttr
  split
  · split
    · exact .inl ⟨_, _, by simp, rfl⟩
    · exact .inl ⟨_, _, by simp, rfl⟩
  · exact .inr rfl

/-- The read of one value loads one frame, with at most two bytes expected, or ends where the family has no such
register (R115, R160). -/
theorem getAttr_cases (t : Byte) (attr : Attr) (s : State) :
    (∃ instr params n, params.length ≤ 3 ∧ n ≤ 2 ∧ getAttr t attr s = transact t instr params n s) ∨
      getAttr t attr s = complete .unsupported s := by
  unfold getAttr
  split
  · rename_i h
    exact .inl ⟨_, _, _, by simp, regmap_width h, rfl⟩
  · exact .inr rfl

/-! ### A write of `OP` -/

/-- All that a write of `op` to `OP` can leave (R140): it is ignored, it ends in the same step, or the operation's first
frame or wait begins. -/
inductive Accepted (op : Byte) (s : State) : State → Prop where
  | ignored (busy : s.busy = true) : Accepted op s s
  | ended (c : Completion) (busy : s.busy = false) : Accepted op s (complete c (beginOp op s))
  | rawBytes (busy : s.busy = false) (link : op = 0x10#8) (some : 0 < (operandBytes s).length)
      (most : (operandBytes s).length ≤ 14) : Accepted op s (loadFrame (operandBytes s) (beginOp op s))
  | rawWait (busy : s.busy = false) (link : op = 0x11#8) : Accepted op s (awaitByte (beginOp op s))
  | frame (target instr : Byte) (params : List Byte) (n : Nat) (busy : s.busy = false)
      (operation : isReservedOp op = false) (noLink : op ≠ 0x11#8) (id : target ≠ 0xFF#8)
      (device : op = 0x30#8 ∨ op = 0x36#8 → s.devId ≠ 0xFF#8) (most : params.length ≤ 14) (expected : n ≤ 14) :
      Accepted op s (transact target instr params n (beginOp op s))

/-- An acceptance leaves what it must where the operation's own rule does. -/
theorem accept_accepted {op : Byte} {checks : State → List (Bool × Completion)} {run : State → State} {s t : State}
    (h : accept op checks run s = .next t)
    (hrun : s.busy = false → (∀ p ∈ checks (beginOp op s), p.1 = false) → Accepted op s (run (beginOp op s))) :
    Accepted op s t := by
  obtain ⟨hb, ha⟩ | ⟨c, hb, -, ha⟩ | ⟨hb, hc, ha⟩ := accept_cases op checks run s <;>
    obtain rfl := Host.Outcome.next.inj (ha.symm.trans h)
  · exact .ignored hb
  · exact .ended c hb
  · exact hrun hb (firstFail_eq_none.mp hc)

/-- A setter of one value leaves its first frame (R160). -/
theorem accepted_setAttr {op target : Byte} {attr : Attr} {raw : Nat} {isStaged : Bool} {s : State}
    (hs : s.busy = false) (hop : isReservedOp op = false) (hl : op ≠ 0x11#8) (hid : target ≠ 0xFF#8)
    (hd : op = 0x30#8 ∨ op = 0x36#8 → s.devId ≠ 0xFF#8) :
    Accepted op s (setAttr target attr raw isStaged (beginOp op s)) := by
  obtain ⟨instr, params, hp, he⟩ | he := setAttr_cases target attr raw isStaged (beginOp op s) <;> rw [he]
  · exact .frame target instr params 0 hs hop hl hid hd (by omega) (by omega)
  · exact .ended _ hs

/-- A getter leaves its read frame (R160, R169). -/
theorem accepted_getAttr {op target : Byte} {attr : Attr} {s : State} (hs : s.busy = false)
    (hop : isReservedOp op = false) (hl : op ≠ 0x11#8) (hid : target ≠ 0xFF#8)
    (hd : op = 0x30#8 ∨ op = 0x36#8 → s.devId ≠ 0xFF#8) :
    Accepted op s (getAttr target attr (beginOp op s)) := by
  obtain ⟨instr, params, n, hp, hn, he⟩ | he := getAttr_cases target attr (beginOp op s) <;> rw [he]
  · exact .frame target instr params n hs hop hl hid hd (by omega) (by omega)
  · exact .ended _ hs

/-- A target that passes check 3 of R140 is not 255. -/
theorem idCheck_eq_false (target : Byte) : (idCheck target).1 = false ↔ target ≠ 0xFF#8 := by
  simp [idCheck, Config.noId]

/-- The setters whose target is `DEV_ID`: their first frame, or the end (R140, R161 to R167). -/
theorem accept_setAttr_accepted {op : Byte} {checks : State → List (Bool × Completion)} {run : State → State}
    {s t : State} (h : accept op checks run s = .next t) (hop : isReservedOp op = false ∧ op ≠ 0x11#8)
    (hcheck : idCheck s.devId ∈ checks (beginOp op s))
    (hrun : ∃ attr raw isStaged, run (beginOp op s) = setAttr s.devId attr raw isStaged (beginOp op s)) :
    Accepted op s t :=
  accept_accepted h fun hs hc => by
    have hid : s.devId ≠ 0xFF#8 := (idCheck_eq_false _).mp (hc _ hcheck)
    obtain ⟨attr, raw, isStaged, he⟩ := hrun
    exact he ▸ accepted_setAttr hs hop.1 hop.2 hid fun _ => hid

/-- The getters: the read frame, or the end (R140, R169 to R173). -/
theorem accept_getAttr_accepted {op : Byte} {checks : State → List (Bool × Completion)} {run : State → State}
    {s t : State} (h : accept op checks run s = .next t) (hop : isReservedOp op = false ∧ op ≠ 0x11#8)
    (hcheck : idCheck s.devId ∈ checks (beginOp op s))
    (hrun : ∃ attr, run (beginOp op s) = getAttr s.devId attr (beginOp op s)) : Accepted op s t :=
  accept_accepted h fun hs hc => by
    have hid : s.devId ≠ 0xFF#8 := (idCheck_eq_false _).mp (hc _ hcheck)
    obtain ⟨attr, he⟩ := hrun
    exact he ▸ accepted_getAttr hs hop.1 hop.2 hid fun _ => hid

/-- `LINK_TX` (R95). -/
theorem execLinkTx_accepted {s t : State} (h : execLinkTx s = .next t) : Accepted 0x10#8 s t :=
  accept_accepted h fun hs hc => by
    have hmost : s.cmdCount.toNat ≤ 14 :=
      (countCheck_eq_false 14 s).mp (hc (countCheck 14 s) (by simp [Config.maxParams]))
    have hsome : s.cmdCount ≠ 0#8 := by simpa [someBytesCheck] using hc (someBytesCheck s) (by simp [someBytesCheck])
    have hlen := operandBytes_length hmost
    exact .rawBytes hs rfl (by bv_omega) (by omega)

/-- `LINK_RX` (R96). -/
theorem execLinkRx_accepted {s t : State} (h : execLinkRx s = .next t) : Accepted 0x11#8 s t :=
  accept_accepted h fun hs _ => .rawWait hs rfl

/-- `READ` (R143). -/
theorem execRead_accepted {s t : State} (h : execRead s = .next t) : Accepted 0x20#8 s t :=
  accept_accepted h fun hs hc =>
    have hid : s.cmdId ≠ 0xFF#8 := (idCheck_eq_false _).mp (hc (idCheck s.cmdId) (by simp))
    have hmost : s.cmdCount.toNat ≤ 14 :=
      (countCheck_eq_false 14 s).mp (hc (countCheck 14 s) (by simp [Config.maxParams]))
    .frame s.cmdId _ _ _ hs (by decide) (by decide) hid (by simp) (by simp) hmost

/-- `WRITE` (R144): the start register and at most 13 bytes. -/
theorem execWrite_accepted {s t : State} (h : execWrite s = .next t) : Accepted 0x21#8 s t :=
  accept_accepted h fun hs hc => by
    have hid : s.cmdId ≠ 0xFF#8 := (idCheck_eq_false _).mp (hc (idCheck s.cmdId) (by simp))
    have hmost : s.cmdCount.toNat ≤ 13 :=
      (countCheck_eq_false 13 s).mp (hc (countCheck 13 s) (by simp [Config.maxParams]))
    have hlen : (operandBytes s).length = s.cmdCount.toNat := operandBytes_length (by omega)
    have hparams : (s.cmdAddr :: operandBytes s).length ≤ 14 := by simp only [List.length_cons]; omega
    exact .frame s.cmdId _ _ 0 hs (by decide) (by decide) hid (by simp) hparams (by omega)

/-- `TRIGGER` (R145). -/
theorem execTrigger_accepted {s t : State} (h : execTrigger s = .next t) : Accepted 0x22#8 s t :=
  accept_accepted h fun hs _ =>
    .frame Config.broadcastId _ [] 0 hs (by decide) (by decide) (by decide) (by simp) (by simp) (by omega)

/-- `SET_GOAL` (R161). -/
theorem execSetGoal_accepted {s t : State} (h : execSetGoal s = .next t) : Accepted 0x30#8 s t :=
  accept_setAttr_accepted h (by decide) (by simp) ⟨_, _, _, rfl⟩

/-- `SET_CW_LIMIT` (R162). -/
theorem execSetCwLimit_accepted {s t : State} (h : execSetCwLimit s = .next t) : Accepted 0x31#8 s t :=
  accept_setAttr_accepted h (by decide) (by simp) ⟨_, _, _, rfl⟩

/-- `SET_CCW_LIMIT` (R163). -/
theorem execSetCcwLimit_accepted {s t : State} (h : execSetCcwLimit s = .next t) : Accepted 0x32#8 s t :=
  accept_setAttr_accepted h (by decide) (by simp) ⟨_, _, _, rfl⟩

/-- `SET_CR_SPEED` (R164). -/
theorem execSetCrSpeed_accepted {s t : State} (h : execSetCrSpeed s = .next t) : Accepted 0x33#8 s t :=
  accept_setAttr_accepted h (by decide) (by simp) ⟨_, _, _, rfl⟩

/-- `SET_TORQUE_LIMIT` (R165). -/
theorem execSetTorqueLimit_accepted {s t : State} (h : execSetTorqueLimit s = .next t) : Accepted 0x34#8 s t :=
  accept_setAttr_accepted h (by decide) (by simp) ⟨_, _, _, rfl⟩

/-- `TORQUE_ENABLE` (R166). -/
theorem execTorqueEnable_accepted {s t : State} (h : execTorqueEnable s = .next t) : Accepted 0x35#8 s t :=
  accept_setAttr_accepted h (by decide) (by simp) ⟨_, _, _, rfl⟩

/-- `SET_MODE` (R167). -/
theorem execSetMode_accepted {s t : State} (h : execSetMode s = .next t) : Accepted 0x36#8 s t :=
  accept_setAttr_accepted h (by decide) (by simp) ⟨.cwLimit, 0, false, rfl⟩

/-- `SET_ID` (R168). -/
theorem execSetId_accepted {s t : State} (h : execSetId s = .next t) : Accepted 0x37#8 s t :=
  accept_accepted h fun hs hc =>
    have hid : s.cmdId ≠ 0xFF#8 := (idCheck_eq_false _).mp (hc (idCheck s.cmdId) (by simp))
    accepted_setAttr hs (by decide) (by decide) hid (by simp)

/-- `GET_POSITION` (R169). -/
theorem execGetPosition_accepted {s t : State} (h : execGetPosition s = .next t) : Accepted 0x40#8 s t :=
  accept_getAttr_accepted h (by decide) (by simp [getterChecks]) ⟨_, rfl⟩

/-- `GET_TEMPERATURE` (R170). -/
theorem execGetTemperature_accepted {s t : State} (h : execGetTemperature s = .next t) : Accepted 0x41#8 s t :=
  accept_getAttr_accepted h (by decide) (by simp [getterChecks]) ⟨_, rfl⟩

/-- `GET_VOLTAGE` (R171). -/
theorem execGetVoltage_accepted {s t : State} (h : execGetVoltage s = .next t) : Accepted 0x42#8 s t :=
  accept_getAttr_accepted h (by decide) (by simp [getterChecks]) ⟨_, rfl⟩

/-- `GET_CURRENT` (R172). -/
theorem execGetCurrent_accepted {s t : State} (h : execGetCurrent s = .next t) : Accepted 0x43#8 s t :=
  accept_getAttr_accepted h (by decide) (by simp [getterChecks]) ⟨_, rfl⟩

/-- `IS_MOVING` (R173). -/
theorem execIsMoving_accepted {s t : State} (h : execIsMoving s = .next t) : Accepted 0x44#8 s t :=
  accept_getAttr_accepted h (by decide) (by simp [getterChecks]) ⟨_, rfl⟩

/-- A reserved opcode always fails check 1 (R76, R140). -/
theorem execReservedOp_accepted {op : Byte} {s t : State} (h : execReservedOp op s = .next t) : Accepted op s t :=
  accept_accepted h fun _ hc => by simp at hc

/-- Whatever the host writes to `OP`, the step leaves one of the states of `Accepted`. -/
theorem exec_decodeOp_accepted {op : Byte} {s t : State} (h : exec (decodeOp op) s = .next t) : Accepted op s t := by
  rcases decodeOp_cases op with
    ⟨rfl, hi⟩ | ⟨rfl, hi⟩ | ⟨rfl, hi⟩ | ⟨rfl, hi⟩ | ⟨rfl, hi⟩ | ⟨rfl, hi⟩ | ⟨rfl, hi⟩ | ⟨rfl, hi⟩ | ⟨rfl, hi⟩ |
    ⟨rfl, hi⟩ | ⟨rfl, hi⟩ | ⟨rfl, hi⟩ | ⟨rfl, hi⟩ | ⟨rfl, hi⟩ | ⟨rfl, hi⟩ | ⟨rfl, hi⟩ | ⟨rfl, hi⟩ | ⟨rfl, hi⟩ |
    ⟨-, hi⟩ <;> rw [hi] at h
  · exact execLinkTx_accepted h
  · exact execLinkRx_accepted h
  · exact execRead_accepted h
  · exact execWrite_accepted h
  · exact execTrigger_accepted h
  · exact execSetGoal_accepted h
  · exact execSetCwLimit_accepted h
  · exact execSetCcwLimit_accepted h
  · exact execSetCrSpeed_accepted h
  · exact execSetTorqueLimit_accepted h
  · exact execTorqueEnable_accepted h
  · exact execSetMode_accepted h
  · exact execSetId_accepted h
  · exact execGetPosition_accepted h
  · exact execGetTemperature_accepted h
  · exact execGetVoltage_accepted h
  · exact execGetCurrent_accepted h
  · exact execIsMoving_accepted h
  · exact execReservedOp_accepted h

/-! ### After a transaction -/

/-- What an operation of several transactions writes between two of them (R161, R167): its own counters, and `ERR` where
it is restored. -/
def noted (sub : Nat) (werr err : Byte) (pollcnt : Half) (free : Nat) (s : State) : State :=
  { s with sub := sub, werr := werr, err := err, pollcnt := pollcnt, free := free }

/-- The operations that read one value (R169 to R173). -/
def getterBytes : List Byte := [0x40#8, 0x41#8, 0x42#8, 0x43#8, 0x44#8]

/-- All that the operation's own rule can leave after a transaction (`next` of R149): it ends, a getter with `RESULT`
written (R169), or `SET_GOAL` or `SET_MODE` loads its next frame for `DEV_ID` (R161, R167). -/
inductive Continued (s : State) : State → Prop where
  | ended (c : Completion) (sub : Nat) (werr err : Byte) (pollcnt : Half) (free : Nat) (most : sub ≤ max s.sub 2) :
      Continued s (complete c (noted sub werr err pollcnt free s))
  | result (v : Int) (getter : s.op ∈ getterBytes) : Continued s (complete .ok (setResult v s))
  | frame (instr : Byte) (params : List Byte) (n sub : Nat) (werr err : Byte) (pollcnt : Half) (free : Nat)
      (several : s.op = 0x30#8 ∨ s.op = 0x36#8) (few : params.length ≤ 3) (expected : n ≤ 2)
      (most : sub ≤ max s.sub 2) :
      Continued s (transact s.devId instr params n (noted sub werr err pollcnt free s))

/-- The operation ends with its counters as they are. -/
theorem continued_complete (c : Completion) (s : State) : Continued s (complete c s) :=
  .ended c s.sub s.werr s.err s.pollcnt s.free (by omega)

/-- A further write of one value. -/
theorem continued_setAttr (attr : Attr) (raw : Nat) {s : State} {sub : Nat} (hs : s.op = 0x30#8 ∨ s.op = 0x36#8)
    (hk : sub ≤ 2) : Continued s (setAttr s.devId attr raw false { s with sub := sub }) := by
  obtain ⟨instr, params, hp, he⟩ | he := setAttr_cases s.devId attr raw false { s with sub := sub } <;> rw [he]
  · exact .frame instr params 0 sub s.werr s.err s.pollcnt s.free hs hp (by omega) (by omega)
  · exact .ended _ sub s.werr s.err s.pollcnt s.free (by omega)

/-- A further read of one value. -/
theorem continued_getAttr (attr : Attr) {s : State} {sub : Nat} {werr err : Byte} {pollcnt : Half} {free : Nat}
    (hs : s.op = 0x30#8 ∨ s.op = 0x36#8) (hk : sub ≤ max s.sub 2) :
    Continued s (getAttr s.devId attr (noted sub werr err pollcnt free s)) := by
  obtain ⟨instr, params, n, hp, hn, he⟩ | he :=
    getAttr_cases s.devId attr (noted sub werr err pollcnt free s) <;> rw [he]
  · exact .frame instr params n sub werr err pollcnt free hs hp hn hk
  · exact .ended _ sub werr err pollcnt free hk

/-- Counting a poll writes `pollcnt` alone, and draws a free value past its 16 bits (log entry 7). -/
theorem countPoll_eq (s : State) : ∃ pollcnt free, countPoll s = noted s.sub s.werr s.err pollcnt free s := by
  unfold countPoll
  split
  · exact ⟨_, _, rfl⟩
  · exact ⟨_, _, rfl⟩

/-- `SET_GOAL` after a transaction (R161): the end, or a poll. -/
theorem continueSetGoal_continued {s : State} (hs : s.op = 0x30#8) : Continued s (continueSetGoal s) := by
  unfold continueSetGoal
  split
  · split
    · exact continued_getAttr (werr := s.err) (sub := 1) .moving (.inl hs) (by omega)
    · obtain ⟨pollcnt, free, he⟩ := countPoll_eq s
      rw [he, afterPoll]
      split
      · exact .ended .ok s.sub s.werr s.werr pollcnt free (by omega)
      · split
        · exact .ended .pollExpired s.sub s.werr s.werr pollcnt free (by omega)
        · exact continued_getAttr .moving (.inl hs) (by omega)
  · exact continued_complete .ok s

/-- `SET_MODE` after a transaction (R167): the second write, the third, the end. -/
theorem continueSetMode_continued {s : State} (hs : s.op = 0x36#8) : Continued s (continueSetMode s) := by
  unfold continueSetMode
  split
  · exact continued_setAttr .ccwLimit (modeCcw s) (.inr hs) (by omega)
  · split
    · exact continued_setAttr .movingSpeed 0 (.inr hs) (by omega)
    · exact continued_complete .ok s

/-- Whatever operation runs, a transaction leaves one of the states of `Continued`. -/
theorem afterTransaction_continued (s : State) : Continued s (afterTransaction s) := by
  unfold afterTransaction
  cases h : decodeOp s.op
  case setGoal => exact continueSetGoal_continued (by simpa [encode] using singleton_eq_encode h)
  case setMode => exact continueSetMode_continued (by simpa [encode] using singleton_eq_encode h)
  case getPosition => exact .result _ (by simp [getterBytes, (List.cons.inj (singleton_eq_encode h)).1])
  case getTemperature => exact .result _ (by simp [getterBytes, (List.cons.inj (singleton_eq_encode h)).1])
  case getVoltage => exact .result _ (by simp [getterBytes, (List.cons.inj (singleton_eq_encode h)).1])
  case getCurrent => exact .result _ (by simp [getterBytes, (List.cons.inj (singleton_eq_encode h)).1])
  case isMoving => exact .result _ (by simp [getterBytes, (List.cons.inj (singleton_eq_encode h)).1])
  all_goals exact continued_complete .ok s

/-! ### The attached actuators -/

/-- What holds of an attached actuator: its registers are in canonical form, and the staged write it holds is one R44
gives a meaning. -/
structure ActuatorSound (a : Actuator) : Prop where
  memory : Memory.wf a.regs = true
  range : ∀ p, a.staged = some p →
    p.1.toNat + p.2.length ≤ 256 ∧ (a.flatRanges = true ∨ crossesRegister a.hr p.1.toNat p.2.length = false)

/-- It holds of every actuator on the line. -/
def ActuatorsSound (l : List Actuator) : Prop := ∀ a ∈ l, ActuatorSound a

/-- An actuator whose staged write is what it was, or gone. -/
theorem ActuatorSound.of_frame {a b : Actuator} (h : ActuatorSound a) (hm : Memory.wf b.regs = true)
    (hs : b.staged = a.staged ∨ b.staged = none) (hf : b.flatRanges = a.flatRanges) (hh : b.hr = a.hr) :
    ActuatorSound b where
  memory := hm
  range := by
    rcases hs with hs | hs
    · rw [hs, hf, hh]; exact h.range
    · simp [hs]

/-- One byte stored below address 256. -/
theorem ActuatorSound.storeByte {a : Actuator} (h : ActuatorSound a) {addr : Nat} (b : Byte) (ha : addr < 256) :
    ActuatorSound (storeByte a addr b) := by
  obtain ⟨hs, -, hf, hh⟩ := storeBytes_frame a addr [b]
  exact h.of_frame (storeByte_wf b ha h.memory) (.inl hs) hf hh

/-- Bytes stored inside the register space. -/
theorem ActuatorSound.storeBytes {a : Actuator} (h : ActuatorSound a) {addr : Nat} (bs : List Byte)
    (ha : addr + bs.length ≤ 256) : ActuatorSound (storeBytes a addr bs) := by
  obtain ⟨hs, -, hf, hh⟩ := storeBytes_frame a addr bs
  exact h.of_frame (storeBytes_wf bs ha h.memory) (.inl hs) hf hh

/-- An immediate write (R54). -/
theorem writeNow_sound {addr : Byte} {data : List Byte} {k : Nat} {a b : Actuator} (ha : ActuatorSound a)
    (h : writeNow addr data k a = .next b) : ActuatorSound b := by
  obtain ⟨hrange, -, hgo⟩ := withRange_next.mp h
  obtain ⟨-, hr, -, hf, hh, hs⟩ := keepStaged_frame k addr.toNat data.length a
  obtain rfl := Host.Outcome.next.inj hgo
  exact (ha.of_frame (hr ▸ ha.memory) hs hf hh).storeBytes data hrange

/-- A staged write (R55). -/
theorem stageWrite_sound {addr : Byte} {data : List Byte} {k : Nat} {a b : Actuator} (ha : ActuatorSound a)
    (h : stageWrite addr data k a = .next b) : ActuatorSound b := by
  obtain ⟨-, hrange, hcross, rfl⟩ := stageWrite_next.mp h
  exact ⟨ha.memory, fun p hp => by obtain rfl := Option.some.inj hp; exact ⟨hrange, hcross⟩⟩

/-- The trigger (R55). -/
theorem fireStaged_sound {k : Nat} {a b : Actuator} (ha : ActuatorSound a) (h : fireStaged k a = .next b) :
    ActuatorSound b := by
  unfold fireStaged at h
  split at h
  · obtain rfl := Host.Outcome.next.inj h
    exact ha
  · obtain ⟨hrange, -, hgo⟩ := withRange_next.mp h
    have hempty : ActuatorSound { a with staged := none } := ha.of_frame ha.memory (.inr rfl) rfl rfl
    exact Host.Outcome.next.inj hgo ▸ hempty.storeBytes _ hrange

/-- A packet keeps what holds of the actuators if what it makes of each does. -/
theorem eachReached_sound {id : Byte} {f : Nat → Actuator → Host.Outcome Actuator Fault Refusal} {k : Nat}
    {l l' : List Actuator} (hf : ∀ j a b, ActuatorSound a → f j a = .next b → ActuatorSound b)
    (h : eachReached id f k l = .next l') (hl : ActuatorsSound l) : ActuatorsSound l' := by
  obtain ⟨hlen, hall⟩ := eachReached_next h
  intro b hb
  obtain ⟨j, hj, rfl⟩ := List.getElem_of_mem hb
  have ha : l[j] ∈ l := List.getElem_mem (hlen ▸ hj)
  obtain ⟨-, he⟩ | ⟨-, he⟩ := hall j l[j] l'[j] (by simp) (by simp)
  · exact he ▸ hl _ ha
  · exact hf _ _ _ (hl _ ha) he

/-! ### Steps of the environment -/

/-- A step that leaves the core alone (R39): it writes the bus and draws free values, and keeps what holds of the
actuators. -/
def EnvironmentStep (s t : State) : Prop :=
  ∃ bus free, t = { s with bus := bus, free := free } ∧
    (ActuatorsSound s.bus.actuators → ActuatorsSound bus.actuators)

/-- Nobody moves. -/
theorem EnvironmentStep.refl (s : State) : EnvironmentStep s s := ⟨s.bus, s.free, rfl, id⟩

/-- Bytes taken off the line before. -/
theorem EnvironmentStep.of_takeWire {rest : List Byte} {s t : State} (h : EnvironmentStep (takeWire rest s) t) :
    EnvironmentStep s t := by
  obtain ⟨bus, free, rfl, hs⟩ := h
  exact ⟨bus, free, rfl, hs⟩

/-- A write packet on the bus (R54 to R56). -/
theorem busWrite_environment {id : Byte} {f : Nat → Actuator → Host.Outcome Actuator Fault Refusal} {s t : State}
    (hf : ∀ j a b, ActuatorSound a → f j a = .next b → ActuatorSound b) (h : busWrite id f s = .next t) :
    EnvironmentStep s t := by
  obtain ⟨l, hl, he⟩ := andThen_next.mp h
  obtain rfl := Host.Outcome.next.inj he
  exact ⟨_, _, rfl, eachReached_sound hf hl⟩

/-- A read packet on the bus (R53): no register changes. -/
theorem busRead_environment {id addr count : Byte} {s t : State} (h : busRead id addr count s = .next t) :
    EnvironmentStep s t := by
  unfold busRead at h
  split at h
  · exact Host.Outcome.next.inj h ▸ .refl s
  · split at h
    · exact Host.Outcome.next.inj h ▸ .refl s
    · split at h
      · cases h
      · obtain ⟨-, -, he⟩ := withRange_next.mp h
        exact Host.Outcome.next.inj he ▸ ⟨_, _, rfl, fun h => h⟩
    · exact Host.Outcome.next.inj h ▸ ⟨_, _, rfl, fun h => h⟩

/-- The row a packet belongs to decides what the actuators make of it, and none reaches the core (R52 to R56). -/
theorem exec_classify_environment {id code : Byte} {params : List Byte} {i : Instr} {s t : State}
    (hi : classify id code params = .ok i) (h : exec i s = .next t) : EnvironmentStep s t := by
  unfold classify at hi
  split at hi
  · split at hi <;> cases hi
    exact busWrite_environment (fun _ _ _ => fireStaged_sound) h
  split at hi
  · split at hi <;> cases hi
    exact busRead_environment h
  split at hi
  · split at hi <;> cases hi
    exact busWrite_environment (fun _ _ _ => writeNow_sound) h
  split at hi
  · split at hi <;> cases hi
    exact busWrite_environment (fun _ _ _ => stageWrite_sound) h
  split at hi
  · cases hi
  cases hi
  change (if _ then _ else _) = _ at h
  split at h
  · cases h
  · exact Host.Outcome.next.inj h ▸ .refl s

/-- What the decoder reads from the line belongs to a row of `classify` (R66). -/
theorem decode_lineOut_classify {bs rest : List Byte} {i : Instr} (h : decode .lineOut bs = .ok (i, rest)) :
    ∃ id code params, classify id code params = .ok i := by
  change decodeIpkt bs = _ at h
  unfold decodeIpkt at h
  split at h
  · rename_i h0 h1 id len code tail
    split at h; · cases h
    split at h; · cases h
    split at h; · cases h
    split at h; · cases h
    split at h; · cases h
    split at h; · cases h
    cases hc : classify id code (tail.take (len.toNat - 2)) with
    | error e => simp [hc, Except.map] at h
    | ok j =>
      simp only [hc, Except.map, Except.ok.injEq, Prod.mk.injEq] at h
      exact ⟨_, _, _, h.1 ▸ hc⟩
  · cases h

/-- Whatever the attached actuators do, they leave the core alone (R39). -/
theorem actuatorsAct_environment {s t : State} (h : actuatorsAct s = .next t) : EnvironmentStep s t := by
  unfold actuatorsAct at h
  split at h
  · exact Host.Outcome.next.inj h ▸ .refl s
  · split at h
    · rename_i hd
      obtain ⟨id, code, params, hc⟩ := decode_lineOut_classify hd
      exact .of_takeWire (exec_classify_environment hc h)
    · split at h
      · exact Host.Outcome.next.inj h ▸ .refl s
      · rename_i e _ _
        obtain ⟨-, -, he⟩ | ⟨-, he⟩ := unreadable_cases e s <;> rw [he] at h
        · cases h
        · obtain rfl := Host.Outcome.next.inj h
          obtain ⟨-, hp⟩ | ⟨-, hp⟩ := passBy_cases e s <;> rw [hp]
          · exact ⟨_, _, rfl, id⟩
          · exact ⟨_, _, rfl, id⟩

/-- Actuators attached in the course of a run hold nothing yet (log entry 11). -/
theorem attachActuator_environment (id : Byte) (hr flat : Bool) (s : State) :
    EnvironmentStep s (attachActuator id hr flat s) := by
  refine ⟨_, s.free, rfl, fun h a ha => ?_⟩
  rcases List.mem_append.mp ha with ha | ha
  · exact h a ha
  · obtain rfl := List.mem_singleton.mp ha
    exact ⟨Memory.wf_nil, by simp⟩

/-- One actuator changes of its own accord (R46, R57). -/
theorem changeActuator_environment (k : Nat) {f : Actuator → Actuator} (s : State)
    (hf : ∀ a, ActuatorSound a → ActuatorSound (f a)) : EnvironmentStep s (changeActuator k f s) := by
  refine ⟨_, s.free, rfl, fun h b hb => ?_⟩
  obtain ⟨j, hj, rfl⟩ := List.getElem_of_mem hb
  simp only [List.getElem_modify]
  split
  · exact hf _ (h _ (List.getElem_mem _))
  · exact h _ (List.getElem_mem _)

/-- A reply byte lost in a collision (R229). -/
theorem loseReply_environment (s : State) : EnvironmentStep s (loseReply s) := by
  obtain ⟨-, he⟩ | ⟨-, he⟩ := loseReply_cases s <;> rw [he]
  · exact ⟨_, s.free, rfl, id⟩
  · exact .refl s

end Sys2Proof.Machine
end

section
/-! SUPPORT. One step, the register port (R11 to R34), and the statements about them. -/

namespace Sys2Proof.Machine

/-! ### One step -/

/-- A step takes the next event off the list and does what it says. -/
theorem step_cons {s : State} {e : Event} {es : List Event} (h : s.events = e :: es) :
    step s = runEvent e { s with events := es } := by
  simp [step, popEvent, h]

/-- All that a step can be: nobody is left to move, or the next event is run. -/
theorem step_cases {s t : State} (h : step s = .next t) :
    (s.events = [] ∧ t = s) ∨ ∃ e es, s.events = e :: es ∧ runEvent e { s with events := es } = .next t := by
  cases he : s.events with
  | nil => exact .inl ⟨rfl, by simpa [step, he, eq_comm] using h⟩
  | cons e es => exact .inr ⟨e, es, rfl, (step_cons he).symm.trans h⟩

/-! ### A host write -/

/-- Under reset every host write is ignored (R215). -/
theorem hostWrite_reset (r : BitVec 7) (v : Word) {s : State} (h : s.rst = true) : hostWrite r v s = .next s := by
  simp [hostWrite, h]

/-- A write of `OP` (R25, R74). -/
theorem hostWrite_op (v : Word) {s : State} (h : s.rst = false) :
    hostWrite opReg v s = exec (decodeOp (v.setWidth 8)) s := by
  simp [hostWrite, h]

/-- A write of a register that is locked while an operation runs (R11). -/
theorem hostWrite_locked {r : BitVec 7} (v : Word) {s : State} (hr : r ≠ opReg) (hb : s.busy = true)
    (hl : lockedWhileBusy r = true) : hostWrite r v s = .next s := by
  simp [hostWrite, hr, hb, hl]

/-- A write of any other register, or with no operation running, stores (R11). -/
theorem hostWrite_stores {r : BitVec 7} (v : Word) {s : State} (h : s.rst = false) (hr : r ≠ opReg)
    (hl : s.busy = true → lockedWhileBusy r = false) : hostWrite r v s = .next (storeReg r v s) := by
  cases hb : s.busy <;> simp_all [hostWrite]

/-- All that a host write can leave (R11, R25, R215). -/
theorem hostWrite_cases {r : BitVec 7} {v : Word} {s t : State} (h : hostWrite r v s = .next t) :
    t = s ∨ (s.rst = false ∧ r = opReg ∧ exec (decodeOp (v.setWidth 8)) s = .next t) ∨
      (r ≠ opReg ∧ (s.busy = true → lockedWhileBusy r = false) ∧ t = storeReg r v s) := by
  by_cases hrst : s.rst = true
  · exact .inl (Host.Outcome.next.inj (h.symm.trans (hostWrite_reset r v hrst)))
  have hrst : s.rst = false := by simpa using hrst
  by_cases hr : r = opReg
  · subst hr
    exact .inr (.inl ⟨hrst, rfl, (hostWrite_op v hrst).symm.trans h⟩)
  by_cases hl : s.busy = true ∧ lockedWhileBusy r = true
  · exact .inl (Host.Outcome.next.inj (h.symm.trans (hostWrite_locked v hr hl.1 hl.2)))
  have hl : s.busy = true → lockedWhileBusy r = false := by simpa using hl
  exact .inr (.inr ⟨hr, hl, Host.Outcome.next.inj (h.symm.trans (hostWrite_stores v hrst hr hl))⟩)

/-- A store to a read-only register or a reserved number does nothing (R11). -/
theorem storeReg_ignored {r : BitVec 7} (v : Word) (s : State)
    (h : r.toNat = 7 ∨ (13 ≤ r.toNat ∧ r.toNat ≤ 15) ∨ (17 ≤ r.toNat ∧ r.toNat ≤ 31) ∨ 46 ≤ r.toNat) :
    storeReg r v s = s := by
  have hdata : ¬(32 ≤ r.toNat ∧ r.toNat ≤ 45) := by omega
  unfold storeReg
  split
  case h_14 => exact if_neg hdata
  all_goals omega

/-- The store of a register that is writable while an operation runs (R11): `CTRL` sets `abort_req` at most, `STATUS`
clears its two bits at most (R18, R26). -/
theorem storeReg_unlocked {r : BitVec 7} (v : Word) (s : State) (h : lockedWhileBusy r = false) :
    ∃ a o l, storeReg r v s = { s with abortReq := a, ovr := o, lbMismatch := l } := by
  have hl : ¬((r.toNat < 16 ∧ r.toNat ≠ 6) ∨ (32 ≤ r.toNat ∧ r.toNat ≤ 45)) := by simpa [lockedWhileBusy] using h
  by_cases h6 : r.toNat = 6
  · exact ⟨s.abortReq || (v.getLsbD 0 && s.busy), s.ovr, s.lbMismatch, by simp only [storeReg, h6]⟩
  by_cases h16 : r.toNat = 16
  · exact ⟨s.abortReq, s.ovr && !v.getLsbD 4, s.lbMismatch && !v.getLsbD 5, by simp only [storeReg, h16]⟩
  · exact ⟨s.abortReq, s.ovr, s.lbMismatch, storeReg_ignored v s (by omega)⟩

/-- A store to one of `WDATA` (R24). -/
theorem storeReg_wdata (v : Word) (s : State) {i : Nat} (hi : i < 14) :
    storeReg (BitVec.ofNat 7 (32 + i)) v s = { s with wdata := s.wdata.setIfInBounds i (v.setWidth 8) } := by
  have hr : (BitVec.ofNat 7 (32 + i)).toNat = 32 + i := by simp; omega
  unfold storeReg
  rw [hr]
  split
  case h_14 => simp [show 32 + i ≤ 45 by omega]
  all_goals omega

/-- A byte of a buffer after one was stored. -/
theorem byteAt_setIfInBounds {n : Nat} (w : Vector Byte n) {i : Nat} (b : Byte) (hi : i < n) (k : Nat) :
    byteAt (w.setIfInBounds i b) k = if k = i then b else byteAt w k := by
  by_cases hk : k = i
  · subst hk; simp [byteAt, hi]
  · simp [byteAt, hk, Ne.symm hk]

/-! ### A host read -/

/-- The registers from 23 upward are the four buffers, every other number reading 0 (R11, R24, R31, R34). -/
theorem readReg_buffers {r : BitVec 7} (s : State) (h : 23 ≤ r.toNat) :
    readReg r s =
      if 32 ≤ r.toNat ∧ r.toNat ≤ 45 then wide (byteAt s.wdata (r.toNat - 32))
      else if 48 ≤ r.toNat ∧ r.toNat ≤ 61 then wide (byteAt s.rdata (r.toNat - 48))
      else if 64 ≤ r.toNat ∧ r.toNat ≤ 83 then wide (byteAt s.rxbuf (r.toNat - 64))
      else if 96 ≤ r.toNat ∧ r.toNat ≤ 115 then wide (byteAt s.txbuf (r.toNat - 96))
      else 0#32 := by
  unfold readReg
  split
  case h_20 => rfl
  all_goals omega

/-- A reserved number reads 0 (R11). -/
theorem readReg_reserved {r : BitVec 7} (s : State)
    (h : r.toNat ∈ [7, 14, 15, 46, 47, 62, 63] ∨ (23 ≤ r.toNat ∧ r.toNat ≤ 31) ∨ (84 ≤ r.toNat ∧ r.toNat ≤ 95) ∨
      116 ≤ r.toNat) : readReg r s = 0#32 := by
  simp only [List.mem_cons, List.not_mem_nil, or_false] at h
  by_cases hlow : r.toNat < 23
  · obtain hr | hr | hr : r.toNat = 7 ∨ r.toNat = 14 ∨ r.toNat = 15 := by omega
    all_goals simp only [readReg, hr]; rfl
  · rw [readReg_buffers s (by omega), if_neg (by omega), if_neg (by omega), if_neg (by omega), if_neg (by omega)]

/-- A byte of `WDATA` at the port (R24). -/
theorem readReg_wdata (s : State) {i : Nat} (hi : i < 14) :
    readReg (BitVec.ofNat 7 (32 + i)) s = (byteAt s.wdata i).setWidth 32 := by
  have hr : (BitVec.ofNat 7 (32 + i)).toNat = 32 + i := by simp; omega
  rw [readReg_buffers s (by omega), hr, if_pos (by omega), Nat.add_sub_cancel_left, wide]

/-- A byte of `RDATA` at the port (R31). -/
theorem readReg_rdata (s : State) {i : Nat} (hi : i < 14) :
    readReg (BitVec.ofNat 7 (48 + i)) s = (byteAt s.rdata i).setWidth 32 := by
  have hr : (BitVec.ofNat 7 (48 + i)).toNat = 48 + i := by simp; omega
  rw [readReg_buffers s (by omega), hr, if_neg (by omega), if_pos (by omega), Nat.add_sub_cancel_left, wide]

/-- A byte of `RXBUF` at the port (R34). -/
theorem readReg_rxbuf (s : State) {i : Nat} (hi : i < 20) :
    readReg (BitVec.ofNat 7 (64 + i)) s = (byteAt s.rxbuf i).setWidth 32 := by
  have hr : (BitVec.ofNat 7 (64 + i)).toNat = 64 + i := by simp; omega
  rw [readReg_buffers s (by omega), hr, if_neg (by omega), if_neg (by omega), if_pos (by omega),
    Nat.add_sub_cancel_left, wide]

/-- A byte of `TXBUF` at the port (R34). -/
theorem readReg_txbuf (s : State) {i : Nat} (hi : i < 20) :
    readReg (BitVec.ofNat 7 (96 + i)) s = (byteAt s.txbuf i).setWidth 32 := by
  have hr : (BitVec.ofNat 7 (96 + i)).toNat = 96 + i := by simp; omega
  rw [readReg_buffers s (by omega), hr, if_neg (by omega), if_neg (by omega), if_neg (by omega), if_pos (by omega),
    Nat.add_sub_cancel_left, wide]

/-- A flag stands at its own place alone. -/
theorem bitAt_getElem (b : Bool) {j k : Nat} (hj : j < 8) : (bitAt b k)[j] = (decide (j = k) && b) := by
  cases b
  · simp [bitAt]
  · rw [Bool.eq_iff_iff]
    simp [bitAt]
    omega

/-- Each flag at the bit of `STATUS` R26 gives it. -/
theorem statusByte_bits (s : State) :
    (statusByte s).getLsbD 0 = s.busy ∧ (statusByte s).getLsbD 1 = s.done ∧ (statusByte s).getLsbD 2 = s.malformed ∧
      (statusByte s).getLsbD 3 = s.faultSeen ∧ (statusByte s).getLsbD 4 = s.ovr ∧
      (statusByte s).getLsbD 5 = s.lbMismatch ∧ (statusByte s).getLsbD 6 = dirOut s ∧
      (statusByte s).getLsbD 7 = rxne s := by
  simp [statusByte, bitAt_getElem]

/-- The line direction as a flag (R36). -/
theorem dirOut_iff (s : State) : dirOut s = true ↔ s.dir = .output := by simp [dirOut]

/-- `STATUS.RXNE` (R26). -/
theorem rxne_iff (s : State) : rxne s = true ↔ s.rxq ≠ [] := by simp [rxne]

/-- The port `rx_irq` (R97). -/
theorem rxIrq_iff (s : State) : rxIrq s = true ↔ s.cfg.getLsbD 3 = true ∧ s.rxq ≠ [] ∧ s.busy = false := by
  simp [rxIrq, rxie, rxne, and_assoc]

/-! ### The statements -/

/-- Settles O6. -/
theorem stepRunsHostOperation : Obligations.StepRunsHostOperation := by
  unfold Obligations.StepRunsHostOperation
  intro s v es i rest he hrst hd
  obtain ⟨rfl, -⟩ : decodeOp (v.setWidth 8) = i ∧ [] = rest := by simpa [decode] using hd
  rw [step_cons he]
  exact hostWrite_op v (s := { s with events := es }) hrst

/-- Settles O25: a locked register is not stored, and a write of `OP` is no acceptance while one runs. -/
theorem registersLockedWhileBusy : Obligations.RegistersLockedWhileBusy := by
  unfold Obligations.RegistersLockedWhileBusy
  intro s r v es he hb hr
  rw [step_cons he]
  set u : State := { s with events := es } with hu
  have hbusy : u.busy = true := hb
  change hostWrite r v u = .next u
  by_cases hop : r = opReg
  · subst hop
    cases hrst : u.rst with
    | true => exact hostWrite_reset opReg v hrst
    | false =>
      obtain ⟨checks, run, ha⟩ := exec_decodeOp (v.setWidth 8)
      rw [hostWrite_op v hrst, ha, accept_busy _ _ _ _ hbusy]
  · exact hostWrite_locked v hop hbusy (by simp only [lockedWhileBusy, decide_eq_true_eq]; omega)

/-- Settles O26. -/
theorem reservedRegisters : Obligations.ReservedRegisters := by
  unfold Obligations.ReservedRegisters
  refine fun s r => ⟨readReg_reserved s, fun v es he hr => ?_⟩
  simp only [List.mem_cons, List.not_mem_nil, or_false] at hr
  have hop : r ≠ opReg := by rintro rfl; simp [opReg] at hr
  rw [step_cons he]
  set u : State := { s with events := es } with hu
  change hostWrite r v u = .next u
  cases hrst : u.rst with
  | true => exact hostWrite_reset r v hrst
  | false =>
    by_cases hl : u.busy = true ∧ lockedWhileBusy r = true
    · exact hostWrite_locked v hop hl.1 hl.2
    · rw [hostWrite_stores v hrst hop (by simpa using hl), storeReg_ignored v u (by omega)]

/-- A step in which the host writes a register that is not locked. -/
theorem step_hostWrite {s : State} {r : BitVec 7} {v : Word} {es : List Event} (he : s.events = .hostWrite r v :: es)
    (hrst : s.rst = false) (hr : r ≠ opReg) (hl : s.busy = true → lockedWhileBusy r = false) :
    step s = .next (storeReg r v { s with events := es }) :=
  (step_cons he).trans (hostWrite_stores v (s := { s with events := es }) hrst hr hl)

/-- Settles O27. -/
theorem hostWrites : Obligations.HostWrites := by
  unfold Obligations.HostWrites
  intro s v es hrst
  refine ⟨fun hb => ?_, fun he => step_hostWrite he hrst (by decide) fun _ => rfl,
    fun he => step_hostWrite he hrst (by decide) fun _ => rfl⟩
  have store {r : BitVec 7} (hr : r ≠ opReg) (he : s.events = .hostWrite r v :: es) :
      step s = .next (storeReg r v { s with events := es }) := step_hostWrite he hrst hr (by simp [hb])
  refine ⟨store (by decide), store (by decide), store (by decide), store (by decide), store (by decide),
    store (by decide), store (by decide), store (by decide), store (by decide), store (by decide), store (by decide),
    fun i hi he => ?_⟩
  have hop : BitVec.ofNat 7 (32 + i) ≠ opReg := by
    intro h
    have : (32 + i) % 128 = 13 := by simpa [opReg] using congrArg BitVec.toNat h
    omega
  refine ⟨_, (store hop he).trans (congrArg _ (storeReg_wdata v _ hi)), fun k _ => ?_⟩
  exact byteAt_setIfInBounds s.wdata _ hi k

/-- Settles O28. -/
theorem hostReadsAndPorts : Obligations.HostReadsAndPorts := by
  unfold Obligations.HostReadsAndPorts
  refine ⟨fun s r es he => step_cons he, fun s => ?_⟩
  have wide_bit (k : Nat) (hk : k < 8) : (readReg 16#7 s).getLsbD k = (statusByte s).getLsbD k := by
    simp [readReg, wide, BitVec.getLsbD_setWidth]; omega
  obtain ⟨h0, h1, h2, h3, h4, h5, h6, h7⟩ := statusByte_bits s
  refine ⟨⟨rfl, rfl, rfl, rfl, rfl, rfl, rfl, rfl, rfl, rfl, rfl, rfl, rfl⟩, ⟨rfl, rfl, rfl, rfl, rfl, rfl⟩,
    ⟨fun i hi => ⟨readReg_wdata s hi, readReg_rdata s hi⟩, fun i hi => ⟨readReg_rxbuf s hi, readReg_txbuf s hi⟩⟩,
    ⟨?_, ?_, ?_, ?_, ?_, ?_, ?_, ?_, ?_⟩, rxIrq_iff s, rfl, rfl, dirOut_iff s⟩
  · rw [wide_bit 0 (by omega), h0]
  · rw [wide_bit 1 (by omega), h1]
  · rw [wide_bit 2 (by omega), h2]
  · rw [wide_bit 3 (by omega), h3]
  · rw [wide_bit 4 (by omega), h4]
  · rw [wide_bit 5 (by omega), h5]
  · rw [wide_bit 6 (by omega), h6, dirOut_iff]
  · rw [wide_bit 7 (by omega), h7, rxne_iff]
  · change (BitVec.setWidth 32 (statusByte s)).toNat < 256
    rw [BitVec.toNat_setWidth]
    exact (Nat.mod_le _ _).trans_lt (statusByte s).isLt

end Sys2Proof.Machine
end

section
/-! SUPPORT. What no step but a host write or reset does to the operands, the queue and `RESULT` (R17, R23, R24,
R32, R37). -/

namespace Sys2Proof.Machine

/-! ### What a step leaves of the operands, the queue and `RESULT` -/

/-- A state has the operands of itself. -/
theorem sameOperands_refl (s : State) : SameOperands s s :=
  ⟨rfl, rfl, rfl, rfl, rfl, rfl, rfl, rfl, rfl, rfl, rfl, rfl⟩

/-- `RESULT` changes only where a getter or `LINK_RX` completes with code 0 or 0xB (R32). -/
def ResultByGetter (s t : State) : Prop :=
  t.result ≠ s.result → s.op ∈ [0x11#8, 0x40#8, 0x41#8, 0x42#8, 0x43#8, 0x44#8] ∧ t.done = true ∧ t.busy = false ∧
    (t.cc = 0#8 ∨ t.cc = 0xB#8)

/-- A queue that has lost its head at most, and gained bytes at its end at most (R37, R91). -/
def LosesOnlyHead (before after : List Byte) : Prop :=
  ∃ (k : Nat) (added : List Byte), k ≤ 1 ∧ after = before.drop k ++ added

/-- What every step of the core keeps: the operands, the queue but for its head, `RESULT` but where R32 has it
written. -/
structure CoreFrame (s t : State) : Prop where
  operands : SameOperands s t
  queue : LosesOnlyHead s.rxq t.rxq
  result : ResultByGetter s t

/-- A queue left as it was has lost nothing. -/
theorem queue_kept {q r : List Byte} (h : r = q) : LosesOnlyHead q r :=
  ⟨0, [], by omega, by simp [h]⟩

/-- A queue whose head was taken. -/
theorem queue_popped {q r : List Byte} (h : r = q.tail) : LosesOnlyHead q r :=
  ⟨1, [], by omega, by simp [h]⟩

/-- A queue that bytes were added to. -/
theorem queue_added {q r added : List Byte} (h : r = q ++ added) : LosesOnlyHead q r :=
  ⟨0, added, by omega, by simp [h]⟩

/-- A step that keeps operands, queue and `RESULT`. -/
theorem CoreFrame.of_eq {s t : State} (ho : SameOperands s t) (hq : t.rxq = s.rxq) (hr : t.result = s.result) :
    CoreFrame s t :=
  ⟨ho, queue_kept hq, fun h => absurd hr h⟩

/-- Nothing moves. -/
theorem CoreFrame.refl (s : State) : CoreFrame s s := .of_eq (sameOperands_refl s) rfl rfl

/-- The step goes on from a state that differs in neither operands, `OP` nor `RESULT`, what comes then leaving the queue
alone. -/
theorem CoreFrame.after {s u t : State} (h : CoreFrame u t) (ht : t.rxq = u.rxq) (ho : SameOperands s u)
    (hq : LosesOnlyHead s.rxq u.rxq) (hop : u.op = s.op) (hr : u.result = s.result) :
    CoreFrame s t where
  operands := by
    have := h.operands
    simp_all [SameOperands]
  queue := ht ▸ hq
  result := by
    have := h.result
    unfold ResultByGetter at this ⊢
    rwa [hr, hop] at this

/-- Nothing but a reply with a wrong checksum or length keeps `Ok` from being reported (R146, R195). -/
theorem finalCode_ok (malformed : Bool) :
    (finalCode .ok malformed).code = 0#8 ∨ (finalCode .ok malformed).code = 0xB#8 := by
  cases malformed
  · exact .inl rfl
  · exact .inr rfl

/-- A write of `OP` (R140). -/
theorem Accepted.coreFrame {op : Byte} {s t : State} (h : Accepted op s t) : CoreFrame s t := by
  cases h with
  | ignored => exact .refl s
  | ended c => exact .of_eq (sameOperands_refl s) rfl rfl
  | rawBytes => exact .of_eq (sameOperands_refl s) rfl rfl
  | rawWait => exact .of_eq (sameOperands_refl s) rfl rfl
  | frame => exact .of_eq (sameOperands_refl s) rfl rfl

/-- What follows a transaction (R149). -/
theorem Continued.coreFrame {s t : State} (h : Continued s t) : CoreFrame s t ∧ t.rxq = s.rxq := by
  cases h with
  | ended => exact ⟨.of_eq (sameOperands_refl s) rfl rfl, rfl⟩
  | frame => exact ⟨.of_eq (sameOperands_refl s) rfl rfl, rfl⟩
  | result v getter =>
    refine ⟨⟨sameOperands_refl s, queue_kept rfl, fun _ => ⟨?_, rfl, rfl, finalCode_ok s.malformed⟩⟩, rfl⟩
    exact List.mem_cons_of_mem _ getter

/-- The environment leaves the core alone (R39). -/
theorem EnvironmentStep.coreFrame {s t : State} (h : EnvironmentStep s t) : CoreFrame s t := by
  obtain ⟨bus, free, rfl, -⟩ := h
  exact .of_eq (sameOperands_refl s) rfl rfl

/-- A byte on the line (R91). -/
theorem capture_coreFrame (b : Byte) (s : State) : CoreFrame s (capture b s) := by
  obtain ⟨-, -, he⟩ | ⟨-, -, he⟩ | ⟨-, he⟩ := capture_cases b s <;> rw [he]
  · exact ⟨sameOperands_refl s, queue_added rfl, fun h => absurd rfl h⟩
  · exact .of_eq (sameOperands_refl s) rfl rfl
  · exact .refl s

/-- The next byte owed arrives (R52). -/
theorem deliverReply_coreFrame (s : State) : CoreFrame s (deliverReply s) := by
  unfold deliverReply
  split
  · exact .refl s
  · rename_i b rest _
    have h := capture_coreFrame b { s with bus := { s.bus with reply := rest } }
    exact ⟨h.operands, h.queue, h.result⟩

/-! ### The sequencer -/

/-- What follows a byte (`AFTER_BYTE` of R149). -/
theorem afterByte_cases (s : State) :
    (s.txi < s.txn ∧ afterByte s = { s with pc := .txb }) ∨ afterByte s = complete .ok s ∨
      afterByte s = afterTransaction (broadcastDone s) ∨ (s.op ≠ 0x10#8 ∧ afterByte s = enterSettle s) := by
  unfold afterByte
  split
  · exact .inl ⟨‹_›, rfl⟩
  split
  · exact .inr (.inl rfl)
  rename_i hop
  split
  · exact .inr (.inr (.inl rfl))
  · exact .inr (.inr (.inr ⟨mt (decodeOp_eq_linkTx s.op).mpr hop, rfl⟩))

/-- What follows a byte keeps the frame, and the queue whole. -/
theorem afterByte_coreFrame (s : State) : CoreFrame s (afterByte s) ∧ (afterByte s).rxq = s.rxq := by
  obtain ⟨-, he⟩ | he | he | ⟨-, he⟩ := afterByte_cases s <;> rw [he]
  · exact ⟨.of_eq (sameOperands_refl s) rfl rfl, rfl⟩
  · exact ⟨.of_eq (sameOperands_refl s) rfl rfl, rfl⟩
  · obtain ⟨hf, hq⟩ := (afterTransaction_continued (broadcastDone s)).coreFrame
    exact ⟨hf.after hq (sameOperands_refl s) (queue_kept rfl) rfl rfl, hq⟩
  · exact ⟨.of_eq (sameOperands_refl s) rfl rfl, rfl⟩

/-- `TX` (R87, R88). -/
theorem seqTx_coreFrame (heard : List Byte) (s : State) : CoreFrame s (seqTx heard s) := by
  unfold seqTx
  split
  · obtain ⟨added, o, he, -⟩ := sendByte_frame (currentByte s) heard s
    rw [he]
    split
    · exact ⟨sameOperands_refl s, queue_added rfl, fun h => absurd rfl h⟩
    · obtain ⟨hf, hq⟩ := afterByte_coreFrame _
      exact hf.after hq (sameOperands_refl s) (queue_added rfl) rfl rfl
  · exact .refl s

/-- `DRAIN` (R88). -/
theorem seqDrain_coreFrame (s : State) : CoreFrame s (seqDrain s) := by
  unfold seqDrain
  split
  · obtain ⟨hf, hq⟩ := afterByte_coreFrame _
    exact hf.after hq (sameOperands_refl s) (queue_popped rfl) rfl rfl
  · exact .refl s

/-- `SETTLED` (R142). -/
theorem seqSettled_coreFrame (s : State) : CoreFrame s (seqSettled s) := by
  unfold seqSettled
  split
  · exact .of_eq (sameOperands_refl s) rfl rfl
  · exact .refl s

/-- A received packet is decoded into the result registers, with at most the parameters expected, and the operation goes
on (R104, R149). -/
theorem exec_receivedPacket (s : State) : ∃ id len err params chk, params.length ≤ s.nexp ∧
    exec (receivedPacket s) s = .next (afterTransaction (decodeStatus id len err params chk s)) :=
  ⟨_, _, _, _, _, List.length_take_le _ _, rfl⟩

/-- All that `RX` can leave (R96, R141, R149). -/
theorem seqRx_cases {s t : State} (h : seqRx s = .next t) :
    t = s ∨ (s.pc = .rxb ∧ s.op = 0x11#8 ∧ t = finishLinkRx s) ∨
      (s.pc = .rxb ∧ s.op ≠ 0x11#8 ∧ s.rxi + 1 ≠ s.rxn ∧ t = receiveByte s) ∨
      (s.pc = .rxb ∧ s.op ≠ 0x11#8 ∧ ∃ id len err params chk, params.length ≤ s.nexp ∧
        t = afterTransaction (decodeStatus id len err params chk (receiveByte s))) := by
  unfold seqRx at h
  split at h
  case isFalse => exact .inl (Host.Outcome.next.inj h).symm
  rename_i hp
  split at h
  · rename_i hop
    exact .inr (.inl ⟨hp.1, (decodeOp_eq_linkRx s.op).mp hop, (Host.Outcome.next.inj h).symm⟩)
  rename_i hop
  have hop : s.op ≠ 0x11#8 := mt (decodeOp_eq_linkRx s.op).mpr hop
  split at h
  · obtain ⟨id, len, err, params, chk, hlen, he⟩ := exec_receivedPacket (receiveByte s)
    exact .inr (.inr (.inr ⟨hp.1, hop, id, len, err, params, chk, hlen, Host.Outcome.next.inj (h.symm.trans he)⟩))
  · rename_i hn
    exact .inr (.inr (.inl ⟨hp.1, hop, hn, (Host.Outcome.next.inj h).symm⟩))

/-- `RX` (R96, R141). -/
theorem seqRx_coreFrame {s t : State} (h : seqRx s = .next t) : CoreFrame s t := by
  obtain rfl | ⟨-, hop, rfl⟩ | ⟨-, -, -, rfl⟩ | ⟨-, -, id, len, err, params, chk, -, rfl⟩ := seqRx_cases h
  · exact .refl t
  · exact ⟨sameOperands_refl s, queue_popped rfl, fun _ => ⟨by simp [hop], rfl, rfl, finalCode_ok s.malformed⟩⟩
  · exact ⟨sameOperands_refl s, queue_popped rfl, fun h => absurd rfl h⟩
  · obtain ⟨hf, hq⟩ := (afterTransaction_continued (decodeStatus id len err params chk (receiveByte s))).coreFrame
    exact hf.after hq (sameOperands_refl s) (queue_popped rfl) rfl rfl

/-- `TIMEOUT` (R98). -/
theorem seqTimeout_coreFrame (s : State) : CoreFrame s (seqTimeout s) := by
  unfold seqTimeout
  split
  · exact .of_eq (sameOperands_refl s) rfl rfl
  · exact .refl s

/-- `ABORT` (R148). -/
theorem seqAbort_coreFrame (s : State) : CoreFrame s (seqAbort s) := by
  unfold seqAbort
  split
  · exact .of_eq (sameOperands_refl s) rfl rfl
  · exact .refl s

/-- A step of the sequencer is taken or, under reset, left out (R215). -/
theorem unlessReset_cases {s t : State} {go : Out} (h : unlessReset s go = .next t) :
    t = s ∨ (s.rst = false ∧ go = .next t) := by
  unfold unlessReset at h
  split at h
  · exact .inl (Host.Outcome.next.inj h).symm
  · exact .inr ⟨by simpa using ‹¬s.rst = true›, h⟩

/-- A step of the sequencer that answers a next state keeps the frame if the step itself does. -/
theorem unlessReset_coreFrame {s t : State} {go : Out} (h : unlessReset s go = .next t)
    (hgo : go = .next t → CoreFrame s t) : CoreFrame s t := by
  obtain rfl | ⟨-, h⟩ := unlessReset_cases h
  · exact .refl t
  · exact hgo h

/-! ### Every event -/

/-- Every event but reset and a host write of another register than `OP` keeps operands, queue and `RESULT`. -/
theorem runEvent_coreFrame {e : Event} {s t : State} (h : runEvent e s = .next t)
    (hw : ∀ r v, e = .hostWrite r v → r = opReg) (hrst : e ≠ .setRst true) : CoreFrame s t := by
  cases e with
  | hostWrite r v =>
    obtain rfl | ⟨-, -, hx⟩ | ⟨hr, -, -⟩ := hostWrite_cases h
    · exact .refl t
    · exact (exec_decodeOp_accepted hx).coreFrame
    · exact absurd (hw r v rfl) hr
  | hostRead r => exact Host.Outcome.next.inj h ▸ .of_eq (sameOperands_refl s) rfl rfl
  | tx heard => exact unlessReset_coreFrame h fun h => Host.Outcome.next.inj h ▸ seqTx_coreFrame heard s
  | drain => exact unlessReset_coreFrame h fun h => Host.Outcome.next.inj h ▸ seqDrain_coreFrame s
  | settled => exact unlessReset_coreFrame h fun h => Host.Outcome.next.inj h ▸ seqSettled_coreFrame s
  | rx => exact unlessReset_coreFrame h seqRx_coreFrame
  | timeout => exact unlessReset_coreFrame h fun h => Host.Outcome.next.inj h ▸ seqTimeout_coreFrame s
  | abort => exact unlessReset_coreFrame h fun h => Host.Outcome.next.inj h ▸ seqAbort_coreFrame s
  | line b => exact Host.Outcome.next.inj h ▸ capture_coreFrame b s
  | ticks n =>
    exact unlessReset_coreFrame h fun h => Host.Outcome.next.inj h ▸ .of_eq (sameOperands_refl s) rfl rfl
  | setRst level =>
    cases level with
    | true => exact absurd rfl hrst
    | false => exact Host.Outcome.next.inj h ▸ .of_eq (sameOperands_refl s) rfl rfl
  | attach id hr flat => exact Host.Outcome.next.inj h ▸ .of_eq (sameOperands_refl s) rfl rfl
  | actuatorSets k addr value => exact Host.Outcome.next.inj h ▸ .of_eq (sameOperands_refl s) rfl rfl
  | actuatorFault k error => exact Host.Outcome.next.inj h ▸ .of_eq (sameOperands_refl s) rfl rfl
  | actuators => exact (actuatorsAct_environment h).coreFrame
  | reply => exact Host.Outcome.next.inj h ▸ deliverReply_coreFrame s
  | replyLost =>
    exact unlessReset_coreFrame h fun h => Host.Outcome.next.inj h ▸ (loseReply_environment s).coreFrame

/-- A store of the host's touches neither the queue nor `RESULT` (R11, R32). -/
theorem storeReg_queue_result (r : BitVec 7) (v : Word) (s : State) :
    (storeReg r v s).rxq = s.rxq ∧ (storeReg r v s).result = s.result := by
  unfold storeReg
  split
  case h_14 => split <;> exact ⟨rfl, rfl⟩
  all_goals exact ⟨rfl, rfl⟩

/-- Every event but reset keeps the queue but for its head, and `RESULT` but where R32 has it written. -/
theorem runEvent_queue_result {e : Event} {s t : State} (h : runEvent e s = .next t) (hrst : e ≠ .setRst true) :
    LosesOnlyHead s.rxq t.rxq ∧ ResultByGetter s t := by
  by_cases hw : ∃ r v, e = .hostWrite r v ∧ r ≠ opReg
  · obtain ⟨r, v, rfl, hr⟩ := hw
    obtain rfl | ⟨-, hop, -⟩ | ⟨-, -, rfl⟩ := hostWrite_cases h
    · exact ⟨queue_kept rfl, fun h => absurd rfl h⟩
    · exact absurd hop hr
    · obtain ⟨hq, hres⟩ := storeReg_queue_result r v s
      exact ⟨queue_kept hq, fun h => absurd hres h⟩
  · have hf := runEvent_coreFrame h (fun r v he => by_contra fun hr => hw ⟨r, v, he, hr⟩) hrst
    exact ⟨hf.queue, hf.result⟩

/-! ### The statements -/

/-- Settles O52. -/
theorem onlyTheHostWritesOperands : Obligations.OnlyTheHostWritesOperands := by
  unfold Obligations.OnlyTheHostWritesOperands
  intro s t h hw hrst
  obtain ⟨-, rfl⟩ | ⟨e, es, he, hrun⟩ := step_cases h
  · exact sameOperands_refl t
  · exact (runEvent_coreFrame hrun (fun r v hx => hw r v es (hx ▸ he)) fun hx => hrst es (hx ▸ he)).operands

/-- Settles O53. -/
theorem queueLosesOnlyItsHead : Obligations.QueueLosesOnlyItsHead := by
  unfold Obligations.QueueLosesOnlyItsHead
  intro s t h hrst
  obtain ⟨-, rfl⟩ | ⟨e, es, he, hrun⟩ := step_cases h
  · exact queue_kept rfl
  · exact (runEvent_queue_result hrun fun hx => hrst es (hx ▸ he)).1

/-- Settles O55. -/
theorem resultWrittenOnlyByGetters : Obligations.ResultWrittenOnlyByGetters := by
  unfold Obligations.ResultWrittenOnlyByGetters
  intro s t h hrst
  obtain ⟨-, rfl⟩ | ⟨e, es, he, hrun⟩ := step_cases h
  · exact fun hne => absurd rfl hne
  · exact (runEvent_queue_result hrun fun hx => hrst es (hx ▸ he)).2

end Sys2Proof.Machine
end

section
/-! SUPPORT. The machine invariant: its parts, what each operation keeps of them, and every step. -/

namespace Sys2Proof.Machine

/-! ### The parts of the invariant -/

/-- The part of the invariant that does not depend on where the sequencer stands. -/
structure Bounded (s : State) : Prop where
  lineIn : s.dir = .input
  cfgReserved : s.cfg &&& 0xF0#8 = 0#8
  flagsReserved : s.cmdFlags &&& 0xFC#8 = 0#8
  ccCode : s.cc.toNat ≤ 0xB
  queue : s.rxq.length ≤ 32
  frame : s.txi ≤ s.txn ∧ s.txn ≤ 20
  expected : s.nexp ≤ 14
  reply : s.rxi ≤ 20 ∧ s.rxn ≤ 20
  transactions : s.sub ≤ 2
  count : s.rcount.toNat ≤ 14
  target : s.tgt ≠ 0xFF#8
  actuators : ActuatorsSound s.bus.actuators

/-- No operation runs (R35). -/
structure Idle (s : State) : Prop where
  phase : s.pc = .idle
  busy : s.busy = false
  abort : s.abortReq = false

/-- An operation runs, wherever the sequencer stands (R26, R140, R215). -/
structure Running (s : State) : Prop where
  busy : s.busy = true
  done : s.done = false
  live : s.rst = false
  operation : isOperation s
  device : s.op = 0x30#8 ∨ s.op = 0x36#8 → s.devId ≠ 0xFF#8

/-- Where the sequencer stands while an operation runs: what the phase says of the frame, of the reply and of the
operation (R35, R95, R96, R141). -/
structure InPhase (s : State) : Prop where
  active : s.pc ≠ .idle
  sending : s.pc = .txb ∨ s.pc = .lbd → s.txi < s.txn ∧ s.op ≠ 0x11#8
  settling : s.pc = .settle → s.op ≠ 0x10#8 ∧ s.op ≠ 0x11#8
  receiving : s.pc = .rxb → s.op ≠ 0x10#8 ∧ (s.op ≠ 0x11#8 → s.rxi < s.rxn ∧ s.rxn = 6 + s.nexp)

/-- With no operation running the rest of the invariant says nothing more. -/
theorem Bounded.inv_of_idle {s : State} (h : Bounded s) (hi : Idle s) : MachineInv s :=
  { h with
    busyPhase := by simp [hi.busy, hi.phase]
    notBoth := by simp [hi.busy]
    sending := by simp [hi.phase]
    receiving := by simp [hi.phase]
    device := by simp [hi.busy]
    abortRunning := by simp [hi.abort]
    running := by simp [hi.busy]
    rawReceive := by simp [hi.busy]
    rawTransmit := by simp [hi.busy]
    underReset := fun _ => hi.phase
    memories := fun a ha => (h.actuators a ha).memory
    stagedRanges := fun a ha => (h.actuators a ha).range }

/-- `LINK_RX` stands in no phase but `RXB` (R96). -/
theorem InPhase.rawReceive {s : State} (h : InPhase s) (hop : s.op = 0x11#8) : s.pc = .rxb := by
  cases hpc : s.pc with
  | idle => exact absurd hpc h.active
  | txb => exact absurd hop (h.sending (.inl hpc)).2
  | lbd => exact absurd hop (h.sending (.inr hpc)).2
  | settle => exact absurd hop (h.settling hpc).2
  | rxb => rfl

/-- `LINK_TX` stands in no phase but those of sending (R95). -/
theorem InPhase.rawTransmit {s : State} (h : InPhase s) (hop : s.op = 0x10#8) : s.pc = .txb ∨ s.pc = .lbd := by
  cases hpc : s.pc with
  | idle => exact absurd hpc h.active
  | txb => exact .inl rfl
  | lbd => exact .inr rfl
  | settle => exact absurd hop (h.settling hpc).1
  | rxb => exact absurd hop (h.receiving hpc).1

/-- An operation running in its phase meets the rest of the invariant. -/
theorem Bounded.inv_of_running {s : State} (h : Bounded s) (hr : Running s) (hp : InPhase s) : MachineInv s :=
  { h with
    busyPhase := iff_of_true hr.busy hp.active
    notBoth := by simp [hr.done]
    sending := fun hpc => (hp.sending hpc).1
    receiving := fun hpc => (hp.receiving hpc).2
    device := fun _ => hr.device
    abortRunning := fun _ => hr.busy
    running := fun _ => hr.operation
    rawReceive := fun _ => hp.rawReceive
    rawTransmit := fun _ => hp.rawTransmit
    underReset := by simp [hr.live]
    memories := fun a ha => (h.actuators a ha).memory
    stagedRanges := fun a ha => (h.actuators a ha).range }

/-- The bounds are part of the invariant. -/
theorem MachineInv.bounded {s : State} (h : MachineInv s) : Bounded s :=
  { h with actuators := fun a ha => ⟨h.memories a ha, h.stagedRanges a ha⟩ }

/-- `BUSY` clear: no operation runs (R35, R18). -/
theorem MachineInv.idle {s : State} (h : MachineInv s) (hb : s.busy = false) : Idle s where
  phase := by simpa [hb] using h.busyPhase
  busy := hb
  abort := by simpa [hb] using h.abortRunning

/-- `BUSY` set: an operation runs (R26, R215). -/
theorem MachineInv.isRunning {s : State} (h : MachineInv s) (hb : s.busy = true) : Running s where
  busy := hb
  done := by simpa [hb] using h.notBoth
  live := by simpa using mt h.underReset (h.busyPhase.mp hb)
  operation := h.running hb
  device := h.device hb

/-- What the invariant says of the phase of a running operation. -/
theorem MachineInv.inPhase {s : State} (h : MachineInv s) (hb : s.busy = true) : InPhase s where
  active := h.busyPhase.mp hb
  sending hpc := ⟨h.sending hpc, fun hop => by simp [h.rawReceive hb hop] at hpc⟩
  settling hpc :=
    ⟨fun hop => by simpa [hpc] using h.rawTransmit hb hop, fun hop => by simpa [hpc] using h.rawReceive hb hop⟩
  receiving hpc := ⟨fun hop => by simpa [hpc] using h.rawTransmit hb hop, h.receiving hpc⟩

/-- A sequencer that is not idle runs an operation (R35). -/
theorem MachineInv.busy_of_phase {s : State} (h : MachineInv s) (hp : s.pc ≠ .idle) : s.busy = true :=
  h.busyPhase.mpr hp

/-- A step that keeps each part keeps the invariant. -/
theorem MachineInv.of_parts {s t : State} (h : MachineInv s) (hb : Bounded s → Bounded t) (hi : Idle s → Idle t)
    (hr : Running s → Running t) (hp : InPhase s → InPhase t) : MachineInv t := by
  cases hbusy : s.busy with
  | false => exact (hb h.bounded).inv_of_idle (hi (h.idle hbusy))
  | true => exact (hb h.bounded).inv_of_running (hr (h.isRunning hbusy)) (hp (h.inPhase hbusy))

/-! ### Completion and a new frame -/

/-- Every completion code is one of R191. -/
theorem Completion.code_le (c : Completion) : c.code.toNat ≤ 0xB := by
  cases c <;> decide

/-- Every completion leaves the invariant (R146). -/
theorem Bounded.complete {s : State} (h : Bounded s) (c : Completion) : MachineInv (complete c s) :=
  Bounded.inv_of_idle { h with ccCode := Completion.code_le _ } ⟨rfl, rfl, rfl⟩

/-- The frame just loaded has a byte to send, and does not belong to `LINK_RX` (R95, R141). -/
theorem Bounded.loadFrame {s : State} (h : Bounded s) (hr : Running s) (hop : s.op ≠ 0x11#8) {frame : List Byte}
    (hsome : 0 < frame.length) (hmost : frame.length ≤ 20) : MachineInv (loadFrame frame s) :=
  Bounded.inv_of_running { h with frame := ⟨Nat.zero_le _, hmost⟩ } { hr with }
    { active := nofun, sending := fun _ => ⟨hsome, hop⟩, settling := nofun, receiving := nofun }

/-- A transaction begun leaves the invariant (R141). -/
theorem Bounded.transact {s : State} (h : Bounded s) (hr : Running s) (hop : s.op ≠ 0x11#8) {id instr : Byte}
    {params : List Byte} {n : Nat} (hid : id ≠ 0xFF#8) (hmost : params.length ≤ 14) (hn : n ≤ 14) :
    MachineInv (transact id instr params n s) := by
  have hlen := packet_length id instr params
  have hsome : 0 < (packet id instr params).length := by omega
  have hfits : (packet id instr params).length ≤ 20 := by omega
  exact Bounded.inv_of_running
    { h with frame := ⟨Nat.zero_le _, hfits⟩, target := hid, expected := hn } { hr with }
    { active := nofun, sending := fun _ => ⟨hsome, hop⟩, settling := nofun, receiving := nofun }

/-! ### Acceptance -/

/-- What acceptance writes before the checks is bounded (R140). -/
theorem Bounded.beginOp {s : State} (h : Bounded s) (op : Byte) : Bounded (beginOp op s) :=
  { h with ccCode := Nat.zero_le _, transactions := Nat.zero_le _ }

/-- A write of `OP` keeps the invariant (R140). -/
theorem Accepted.keepsInv {op : Byte} {s t : State} (h : Accepted op s t) (hs : MachineInv s) (hrst : s.rst = false) :
    MachineInv t := by
  have hb : Bounded (beginOp op s) := hs.bounded.beginOp op
  cases h with
  | ignored => exact hs
  | ended c => exact hb.complete c
  | rawBytes _ hop hsome hmost =>
    subst hop
    exact hb.loadFrame ⟨rfl, rfl, hrst, (by decide : isReservedOp 0x10#8 = false), by simp⟩ (by simp) hsome (by omega)
  | rawWait _ hop =>
    subst hop
    exact Bounded.inv_of_running { hb with reply := ⟨hb.reply.1, by simp⟩ }
      ⟨rfl, rfl, hrst, (by decide : isReservedOp 0x11#8 = false), by simp⟩
      { active := nofun, sending := nofun, settling := nofun,
        receiving := fun _ => ⟨by simp, fun hne => absurd rfl hne⟩ }
  | frame target instr params n _ hop hlink hid hdev hmost hn =>
    exact hb.transact ⟨rfl, rfl, hrst, hop, hdev⟩ hlink hid hmost hn

/-! ### What follows a transaction and a byte -/

/-- The operation's own rule leaves the invariant (R149). -/
theorem Continued.keepsInv {s t : State} (h : Continued s t) (hb : Bounded s) (hr : Running s) (hop : s.op ≠ 0x11#8) :
    MachineInv t := by
  have hsub := hb.transactions
  have noted_bounded {sub werr err pollcnt free} (hk : sub ≤ max s.sub 2) :
      Bounded (noted sub werr err pollcnt free s) := { hb with transactions := by simp only [noted]; omega }
  cases h with
  | ended c sub werr err pollcnt free hk => exact (noted_bounded hk).complete c
  | result v => exact Bounded.complete (s := setResult v s) { hb with } .ok
  | frame instr params n sub werr err pollcnt free several few hn hk =>
    exact (noted_bounded hk).transact { hr with } hop (hr.device several) (by omega) (by omega)

/-- What follows a byte leaves the invariant (R149 `AFTER_BYTE`). -/
theorem Bounded.afterByte {s : State} (hb : Bounded s) (hr : Running s) (hop : s.op ≠ 0x11#8) :
    MachineInv (afterByte s) := by
  obtain ⟨hmore, he⟩ | he | he | ⟨hlink, he⟩ := afterByte_cases s <;> rw [he]
  · exact Bounded.inv_of_running { hb with } { hr with }
      { active := nofun, sending := fun _ => ⟨hmore, hop⟩, settling := nofun, receiving := nofun }
  · exact hb.complete .ok
  · have hu : Bounded (broadcastDone s) := { hb with count := Nat.zero_le _ }
    exact (afterTransaction_continued _).keepsInv hu { hr with } hop
  · exact Bounded.inv_of_running { hb with } { hr with }
      { active := nofun, sending := nofun, settling := fun _ => ⟨hlink, hop⟩, receiving := nofun }

/-! ### The sequencer -/

/-- `TX` (R87, R88). -/
theorem seqTx_keepsInv (heard : List Byte) {s : State} (h : MachineInv s) : MachineInv (seqTx heard s) := by
  unfold seqTx
  split
  · rename_i hpc
    have hbusy := h.busy_of_phase (by simp [hpc])
    have hb := h.bounded
    have hr := h.isRunning hbusy
    obtain ⟨hmore, hop⟩ := (h.inPhase hbusy).sending (.inl hpc)
    obtain ⟨added, o, he, hlen⟩ := sendByte_frame (currentByte s) heard s
    rw [he]
    split
    · exact Bounded.inv_of_running { hb with lineIn := rfl, queue := hlen hb.queue } { hr with }
        { active := nofun, sending := fun _ => ⟨hmore, hop⟩, settling := nofun, receiving := nofun }
    · exact Bounded.afterByte
        { hb with lineIn := rfl, queue := hlen hb.queue, frame := ⟨hmore, hb.frame.2⟩ } { hr with } hop
  · exact h

/-- `DRAIN` (R88). -/
theorem seqDrain_keepsInv {s : State} (h : MachineInv s) : MachineInv (seqDrain s) := by
  unfold seqDrain
  split
  · rename_i hpc
    have hbusy := h.busy_of_phase (by simp [hpc.1])
    have hb := h.bounded
    obtain ⟨hmore, hop⟩ := (h.inPhase hbusy).sending (.inr hpc.1)
    exact Bounded.afterByte
      { hb with queue := (List.tail_sublist _).length_le.trans hb.queue, frame := ⟨hmore, hb.frame.2⟩ }
      { h.isRunning hbusy with } hop
  · exact h

/-- `SETTLED` (R142). -/
theorem seqSettled_keepsInv {s : State} (h : MachineInv s) : MachineInv (seqSettled s) := by
  unfold seqSettled
  split
  · rename_i hpc
    have hbusy := h.busy_of_phase (by simp [hpc])
    have hb := h.bounded
    have hn := hb.expected
    obtain ⟨hlink, -⟩ := (h.inPhase hbusy).settling hpc
    exact Bounded.inv_of_running { hb with reply := ⟨Nat.zero_le _, by simp only [enterReceive]; omega⟩ }
      { h.isRunning hbusy with }
      { active := nofun, sending := nofun, settling := nofun,
        receiving := fun _ => ⟨hlink, fun _ => ⟨by simp only [enterReceive]; omega, rfl⟩⟩ }
  · exact h

/-- A byte of the reply taken is bounded, one more of `rxn` at most being counted (R141). -/
theorem Bounded.receiveByte {s : State} (h : Bounded s) (hmore : s.rxi < s.rxn) : Bounded (receiveByte s) :=
  have hrxn := h.reply.2
  { h with
    queue := (List.tail_sublist _).length_le.trans h.queue
    reply := ⟨by simp only [receiveByte_rxi]; omega, hrxn⟩ }

/-- The result registers hold at most the parameters expected (R30, R104). -/
theorem Bounded.decodeStatus {s : State} (h : Bounded s) (id len err : Byte) {params : List Byte} (chk : Byte)
    (hlen : params.length ≤ s.nexp) : Bounded (decodeStatus id len err params chk s) :=
  have hn := h.expected
  { h with count := by simp only [decodeStatus_rcount, BitVec.toNat_ofNat]; omega }

/-- `RX` (R96, R141). -/
theorem seqRx_keepsInv {s t : State} (h : MachineInv s) (hstep : seqRx s = .next t) : MachineInv t := by
  have hb := h.bounded
  obtain rfl | ⟨-, -, rfl⟩ | ⟨hpc, hop, hmore, rfl⟩ | ⟨hpc, hop, id, len, err, params, chk, hlen, rfl⟩ :=
    seqRx_cases hstep
  · exact h
  · exact Bounded.complete (s := { popRxq s with result := wide (headRxq s) })
      { hb with queue := (List.tail_sublist _).length_le.trans hb.queue } .ok
  · have hbusy := h.busy_of_phase (by simp [hpc])
    obtain ⟨hlink, hrest⟩ := (h.inPhase hbusy).receiving hpc
    obtain ⟨hlt, hrxn⟩ := hrest hop
    exact (hb.receiveByte hlt).inv_of_running { h.isRunning hbusy with }
      { active := by simp [hpc], sending := by simp [hpc], settling := by simp [hpc],
        receiving := fun _ => ⟨hlink, fun _ => ⟨by simp only [receiveByte_rxi, receiveByte_rxn]; omega, hrxn⟩⟩ }
  · have hbusy := h.busy_of_phase (by simp [hpc])
    obtain ⟨-, hrest⟩ := (h.inPhase hbusy).receiving hpc
    have hu := (hb.receiveByte (hrest hop).1).decodeStatus id len err chk hlen
    exact (afterTransaction_continued _).keepsInv hu { h.isRunning hbusy with } hop

/-- `TIMEOUT` (R98). -/
theorem seqTimeout_keepsInv {s : State} (h : MachineInv s) : MachineInv (seqTimeout s) := by
  unfold seqTimeout
  split
  · exact Bounded.complete (s := expireTimeout s) { h.bounded with } .busTimeout
  · exact h

/-- `ABORT` (R148). -/
theorem seqAbort_keepsInv {s : State} (h : MachineInv s) : MachineInv (seqAbort s) := by
  unfold seqAbort
  split
  · exact h.bounded.complete .aborted
  · exact h

/-! ### The host, the line, the environment and reset -/

/-- Every store of the host's is bounded: reserved bits stay 0 (R12, R22). -/
theorem Bounded.storeReg {s : State} (h : Bounded s) (r : BitVec 7) (v : Word) : Bounded (storeReg r v s) := by
  unfold Machine.storeReg
  split
  case h_1 => exact { h with cfgReserved := by rw [BitVec.and_assoc]; exact BitVec.and_zero }
  case h_11 => exact { h with flagsReserved := by rw [BitVec.and_assoc]; exact BitVec.and_zero }
  case h_14 =>
    split
    · exact { h with }
    · exact h
  all_goals exact { h with }

/-- A store with no operation running starts none (R18). -/
theorem Idle.storeReg {s : State} (h : Idle s) (r : BitVec 7) (v : Word) : Idle (storeReg r v s) := by
  unfold Machine.storeReg
  split
  case h_7 => exact { h with abort := by simp [h.abort, h.busy] }
  case h_14 =>
    split
    · exact { h with }
    · exact h
  all_goals exact { h with }

/-- A host write keeps the invariant (R11, R25, R215). -/
theorem hostWrite_keepsInv {r : BitVec 7} {v : Word} {s t : State} (h : MachineInv s)
    (hstep : hostWrite r v s = .next t) : MachineInv t := by
  obtain rfl | ⟨hrst, -, hx⟩ | ⟨-, hlock, rfl⟩ := hostWrite_cases hstep
  · exact h
  · exact (exec_decodeOp_accepted hx).keepsInv h hrst
  · cases hbusy : s.busy with
    | false => exact (h.bounded.storeReg r v).inv_of_idle ((h.idle hbusy).storeReg r v)
    | true =>
      obtain ⟨a, o, l, he⟩ := storeReg_unlocked v s (hlock hbusy)
      rw [he]
      exact Bounded.inv_of_running { h.bounded with } { h.isRunning hbusy with } { h.inPhase hbusy with }

/-- A byte on the line keeps the invariant (R91, R92). -/
theorem capture_keepsInv (b : Byte) {s : State} (h : MachineInv s) : MachineInv (capture b s) := by
  obtain ⟨-, hroom, he⟩ | ⟨-, -, he⟩ | ⟨-, he⟩ := capture_cases b s <;> rw [he]
  · exact h.of_parts (fun hb => { hb with queue := by simpa using hroom }) (fun hi => { hi with })
      (fun hr => { hr with }) fun hp => { hp with }
  · exact h.of_parts (fun hb => { hb with }) (fun hi => { hi with }) (fun hr => { hr with }) fun hp => { hp with }
  · exact h

/-- The environment keeps the invariant (R39). -/
theorem EnvironmentStep.keepsInv {s t : State} (hstep : EnvironmentStep s t) (h : MachineInv s) : MachineInv t := by
  obtain ⟨bus, free, rfl, hs⟩ := hstep
  exact h.of_parts (fun hb => { hb with actuators := hs hb.actuators }) (fun hi => { hi with })
    (fun hr => { hr with }) fun hp => { hp with }

/-- The next byte owed arrives (R52). -/
theorem deliverReply_keepsInv {s : State} (h : MachineInv s) : MachineInv (deliverReply s) := by
  unfold deliverReply
  split
  · exact h
  · exact capture_keepsInv _ (EnvironmentStep.keepsInv ⟨_, s.free, rfl, fun hs => hs⟩ h)

/-- The reset values are bounded (R216). -/
theorem reset_bounded : Bounded State.reset :=
  ⟨by decide, by decide, by decide, by decide, by decide, by decide, by decide, by decide, by decide, by decide,
    by decide, by simp [State.reset, ActuatorsSound]⟩

/-- A rising level of `rst` leaves the reset state of the core, which is idle (R215, R216); a falling one changes
nothing else. -/
theorem setRst_keepsInv (level : Bool) {s : State} (h : MachineInv s) : MachineInv (setRst level s) := by
  cases level with
  | true =>
    exact Bounded.inv_of_idle { reset_bounded with actuators := h.bounded.actuators } ⟨rfl, rfl, rfl⟩
  | false =>
    exact h.of_parts (fun hb => { hb with }) (fun hi => { hi with }) (fun hr => { hr with live := rfl })
      fun hp => { hp with }

/-- Ticks count in `wait_cnt` alone (R205). -/
theorem passTicks_keepsInv (n : Nat) {s : State} (h : MachineInv s) : MachineInv (passTicks n s) :=
  h.of_parts (fun hb => { hb with }) (fun hi => { hi with }) (fun hr => { hr with }) fun hp => { hp with }

/-- The read data of the port is no part of the invariant. -/
theorem hostRead_keepsInv (r : BitVec 7) {s : State} (h : MachineInv s) : MachineInv (hostRead r s) :=
  h.of_parts (fun hb => { hb with }) (fun hi => { hi with }) (fun hr => { hr with }) fun hp => { hp with }

/-- Nor are the events still to come. -/
theorem MachineInv.withEvents {s : State} (h : MachineInv s) (es : List Event) :
    MachineInv { s with events := es } :=
  h.of_parts (fun hb => { hb with }) (fun hi => { hi with }) (fun hr => { hr with }) fun hp => { hp with }

/-! ### Every event -/

/-- A step of the sequencer that is left out under reset keeps the invariant if the step itself does. -/
theorem unlessReset_keepsInv {s t : State} {go : Out} (h : MachineInv s) (hstep : unlessReset s go = .next t)
    (hgo : go = .next t → MachineInv t) : MachineInv t := by
  obtain rfl | ⟨-, hx⟩ := unlessReset_cases hstep
  · exact h
  · exact hgo hx

/-- Every event keeps the invariant. -/
theorem runEvent_keepsInv {e : Event} {s t : State} (h : MachineInv s) (hstep : runEvent e s = .next t) :
    MachineInv t := by
  cases e with
  | hostWrite r v => exact hostWrite_keepsInv h hstep
  | hostRead r => exact Host.Outcome.next.inj hstep ▸ hostRead_keepsInv r h
  | tx heard => exact unlessReset_keepsInv h hstep fun hx => Host.Outcome.next.inj hx ▸ seqTx_keepsInv heard h
  | drain => exact unlessReset_keepsInv h hstep fun hx => Host.Outcome.next.inj hx ▸ seqDrain_keepsInv h
  | settled => exact unlessReset_keepsInv h hstep fun hx => Host.Outcome.next.inj hx ▸ seqSettled_keepsInv h
  | rx => exact unlessReset_keepsInv h hstep (seqRx_keepsInv h)
  | timeout => exact unlessReset_keepsInv h hstep fun hx => Host.Outcome.next.inj hx ▸ seqTimeout_keepsInv h
  | abort => exact unlessReset_keepsInv h hstep fun hx => Host.Outcome.next.inj hx ▸ seqAbort_keepsInv h
  | line b => exact Host.Outcome.next.inj hstep ▸ capture_keepsInv b h
  | ticks n => exact unlessReset_keepsInv h hstep fun hx => Host.Outcome.next.inj hx ▸ passTicks_keepsInv n h
  | setRst level => exact Host.Outcome.next.inj hstep ▸ setRst_keepsInv level h
  | attach id hr flat =>
    exact Host.Outcome.next.inj hstep ▸ (attachActuator_environment id hr flat s).keepsInv h
  | actuatorSets k addr value =>
    exact Host.Outcome.next.inj hstep ▸
      (changeActuator_environment k s fun a ha => ha.storeByte value addr.isLt).keepsInv h
  | actuatorFault k error =>
    exact Host.Outcome.next.inj hstep ▸
      (changeActuator_environment k (f := fun a => { a with error := error }) s fun a ha =>
        ha.of_frame ha.memory (.inl rfl) rfl rfl).keepsInv h
  | actuators => exact (actuatorsAct_environment hstep).keepsInv h
  | reply => exact Host.Outcome.next.inj hstep ▸ deliverReply_keepsInv h
  | replyLost =>
    exact unlessReset_keepsInv h hstep fun hx =>
      Host.Outcome.next.inj hx ▸ (loseReply_environment s).keepsInv h

/-- Settles O9: every part of the invariant, event by event. -/
theorem stepKeepsInvariant : Obligations.StepKeepsInvariant := by
  unfold Obligations.StepKeepsInvariant
  intro s t h hstep
  obtain ⟨-, rfl⟩ | ⟨e, es, -, hrun⟩ := step_cases hstep
  · exact h
  · exact runEvent_keepsInv (h.withEvents es) hrun

end Sys2Proof.Machine
end

section
/-! SUPPORT. What an instruction packet makes of the attached actuators and what they reply (R52 to R56, K19), and the
statements about it. -/

namespace Sys2Proof.Machine

/-! ### Ranges -/

/-- A range that runs past address 255 is a fault (R44). -/
theorem withRange_pastEnd {α : Type} {a : Actuator} {addr n : Nat} (go : Host.Outcome α Fault Refusal)
    (h : 256 < addr + n) : withRange a addr n go = .fault .actuatorAddress := by
  simp [withRange, pastEnd, h]

/-- A range across a register boundary is refused (R44, K19; log entry 15). -/
theorem withRange_crosses {α : Type} {a : Actuator} {addr n : Nat} (go : Host.Outcome α Fault Refusal)
    (h : addr + n ≤ 256) (hflat : a.flatRanges = false) (hc : crossesRegister a.hr addr n = true) :
    withRange a addr n go = .refused .registerBoundary := by
  simp [withRange, pastEnd, hflat, hc, Nat.not_lt.mpr h]

/-- A range inside the register space is one the source gives a meaning, or is refused. -/
theorem withRange_inside {α : Type} (a : Actuator) {addr n : Nat} (b : α) (h : addr + n ≤ 256) :
    withRange a addr n (.next b) = .refused .registerBoundary ∨ withRange a addr n (.next b) = .next b := by
  cases hf : a.flatRanges with
  | true => exact .inr (withRange_next.mpr ⟨h, .inl hf, rfl⟩)
  | false =>
    cases hc : crossesRegister a.hr addr n with
    | true => exact .inl (withRange_crosses _ h hf hc)
    | false => exact .inr (withRange_next.mpr ⟨h, .inr hc, rfl⟩)

/-- A range of no bytes crosses no boundary. -/
theorem crossesRegister_zero (hr : Bool) (addr : Nat) : crossesRegister hr addr 0 = false := by
  refine List.any_eq_false.mpr fun r _ => ?_
  simp only [cuts, decide_eq_true_eq]
  omega

/-! ### Who is reached -/

/-- Broadcast reaches every actuator (R52). -/
theorem reaches_broadcast (a : Actuator) : reaches Config.broadcastId a = true := by simp [reaches]

/-- An actuator picked out by its ID has that ID. -/
theorem addressed_id {id : Byte} {a : Actuator} {l : List Actuator} (h : l.filter (fun a => a.id == id) = [a]) :
    a.id = id := by
  have ha : a ∈ l.filter (fun a => a.id == id) := by simp [h]
  simpa using (List.mem_filter.mp ha).2

/-- The actuators addressed are those of the packet's ID. -/
theorem addressedPairs_map_fst (id : Byte) {before after : List Actuator} (hlen : after.length = before.length) :
    (addressedPairs id before after).map Prod.fst = before.filter (fun a => a.id == id) := by
  conv_rhs => rw [← List.map_fst_zip (l₁ := before) (l₂ := after) hlen.ge, List.filter_map]
  rfl

/-! ### The reply to a write -/

/-- Nobody replies to a broadcast (R52). -/
theorem writeReply_broadcast (k : Nat) (pairs : List (Actuator × Actuator)) :
    writeReply Config.broadcastId k pairs = [] := by simp [writeReply]

/-- Nobody replies where no attached actuator has the ID (R52). -/
theorem writeReply_absent {id : Byte} (k : Nat) {before after : List Actuator} (hlen : after.length = before.length)
    (h : before.filter (fun a => a.id == id) = []) : writeReply id k (addressedPairs id before after) = [] := by
  have hp : addressedPairs id before after = [] := by
    simpa [h] using addressedPairs_map_fst id hlen
  simp [writeReply, hp]

/-- The one actuator addressed replies without parameters, under its ID before the write or after it (R54, K22). -/
theorem writeReply_addressed {id : Byte} (k : Nat) {before after : List Actuator} {a : Actuator}
    (hlen : after.length = before.length) (hid : id ≠ Config.broadcastId)
    (h : before.filter (fun a => a.id == id) = [a]) :
    ∃ (j : Nat) (b : Actuator), before[j]? = some a ∧ after[j]? = some b ∧
      writeReply id k (addressedPairs id before after) =
        packet (if Config.freeBit k then b.id else a.id) b.error [] := by
  obtain ⟨⟨a', b⟩, hp, rfl⟩ : ∃ p, addressedPairs id before after = [p] ∧ p.1 = a := by
    simpa [h, List.map_eq_singleton_iff] using addressedPairs_map_fst id hlen
  have hmem : (a', b) ∈ before.zip after :=
    (List.mem_filter.mp (show (a', b) ∈ addressedPairs id before after by simp [hp])).1
  obtain ⟨j, hj⟩ := List.getElem?_of_mem hmem
  obtain ⟨hb, ha⟩ := List.getElem?_zip_eq_some.mp hj
  exact ⟨j, b, hb, ha, by simp [writeReply, hp, hid]⟩

/-! ### Write packets on the bus -/

/-- A write packet is acted on exactly where every actuator it reaches can act on it; then the reply is due. -/
theorem busWrite_next {id : Byte} {f : Nat → Actuator → Host.Outcome Actuator Fault Refusal} {s t : State} :
    busWrite id f s = .next t ↔ ∃ as, eachReached id f s.free s.bus.actuators = .next as ∧
      t = settleBus as (writeReply id (s.free + s.bus.actuators.length) (addressedPairs id s.bus.actuators as))
        (s.bus.actuators.length + 1) s := by
  simp only [busWrite, andThen_next, Host.Outcome.next.injEq, eq_comm (a := t)]

/-- A packet whose effect on each reached actuator is known (R52). -/
theorem eachReached_map {id : Byte} {f : Nat → Actuator → Host.Outcome Actuator Fault Refusal}
    {g : Actuator → Actuator} {k : Nat} {l : List Actuator}
    (h : ∀ a ∈ l, reaches id a = true → ∀ j, f j a = .next (g a)) :
    eachReached id f k l = .next (l.map fun a => if reaches id a then g a else a) := by
  induction l generalizing k with
  | nil => rfl
  | cons a l ih =>
    have hl : ∀ b ∈ l, reaches id b = true → ∀ j, f j b = .next (g b) := fun b hb => h b (by simp [hb])
    cases hr : reaches id a with
    | true => simp [eachReached, andThen, ih hl, hr, h a (by simp) hr]
    | false => simp [eachReached, andThen, ih hl, hr]

/-- One reached actuator that refuses makes the packet a refusal. -/
theorem busWrite_refused {id : Byte} {f : Nat → Actuator → Host.Outcome Actuator Fault Refusal} {r : Refusal}
    {s : State} (hx : ∃ a ∈ s.bus.actuators, reaches id a = true ∧ ∀ j, f j a = .refused r)
    (h : ∀ a ∈ s.bus.actuators, reaches id a = true → ∀ j, f j a = .refused r ∨ ∃ b, f j a = .next b) :
    busWrite id f s = .refused r := by
  rw [busWrite, eachReached_refused hx h]; rfl

/-- A packet on which every reached actuator faults is a fault. -/
theorem busWrite_fault {id : Byte} {f : Nat → Actuator → Host.Outcome Actuator Fault Refusal} {r : Fault}
    {s : State} (hx : ∃ a ∈ s.bus.actuators, reaches id a = true)
    (h : ∀ a ∈ s.bus.actuators, reaches id a = true → ∀ j, f j a = .fault r) : busWrite id f s = .fault r := by
  obtain ⟨a, ha, hr⟩ := hx
  rw [busWrite, eachReached_fault ⟨a, ha, hr, h a ha hr⟩ fun b hb hrb j => .inl (h b hb hrb j)]; rfl

/-- Nobody replies to a write packet for everybody, or for nobody attached (R52). -/
theorem busWrite_no_reply {id : Byte} {f : Nat → Actuator → Host.Outcome Actuator Fault Refusal} {s t : State}
    (hid : id = Config.broadcastId ∨ s.bus.actuators.filter (fun a => a.id == id) = [])
    (h : busWrite id f s = .next t) : t.bus.reply = s.bus.reply := by
  obtain ⟨as, has, rfl⟩ := busWrite_next.mp h
  obtain ⟨hlen, -⟩ := eachReached_next has
  rcases hid with rfl | hid
  · simp [settleBus, writeReply_broadcast]
  · simp [settleBus, writeReply_absent _ hlen hid]

/-! ### An immediate write -/

/-- An immediate write stores its bytes where its range has a meaning (R54). -/
theorem writeNow_next {addr : Byte} {data : List Byte} {k : Nat} {a b : Actuator} :
    writeNow addr data k a = .next b ↔
      addr.toNat + data.length ≤ 256 ∧
        (a.flatRanges = true ∨ crossesRegister a.hr addr.toNat data.length = false) ∧
        b = storeBytes (keepStaged k addr.toNat data.length a) addr.toNat data := by
  simp only [writeNow, withRange_next, Host.Outcome.next.injEq, eq_comm (a := b)]

/-- The bus ID and the registers are all that is read of an actuator. -/
theorem loadByte_congr {a b : Actuator} (hid : b.id = a.id) (hregs : b.regs = a.regs) (x : Nat) :
    loadByte b x = loadByte a x := by simp [loadByte, hid, hregs]

section
variable {addr : Byte} {data : List Byte} {k : Nat} {a b : Actuator} (h : writeNow addr data k a = .next b)
include h

/-- The bytes written are read back at ascending addresses, every other register as before (R54). -/
theorem writeNow_loadByte (x : Nat) :
    loadByte b x =
      if addr.toNat ≤ x ∧ x < addr.toNat + data.length then data[x - addr.toNat]? else loadByte a x := by
  obtain ⟨-, -, rfl⟩ := writeNow_next.mp h
  obtain ⟨hid, hregs, -⟩ := keepStaged_frame k addr.toNat data.length a
  rw [loadByte_storeBytes, loadByte_congr hid hregs]

/-- The ID is as before, or is the byte written to its register (R56). -/
theorem writeNow_id : b.id = a.id ∨ addr.toNat ≤ 3 ∧ data[3 - addr.toNat]? = some b.id := by
  have hload : some b.id = _ := writeNow_loadByte h 3
  split at hload
  · rename_i hin
    exact .inr ⟨hin.1, hload.symm⟩
  · exact .inl (Option.some.inj hload)

/-- The error byte, the family and the way ranges are taken stay. -/
theorem writeNow_frame : b.error = a.error ∧ b.hr = a.hr ∧ b.flatRanges = a.flatRanges := by
  obtain ⟨-, -, rfl⟩ := writeNow_next.mp h
  obtain ⟨-, he, hf, hh⟩ := storeBytes_frame (keepStaged k addr.toNat data.length a) addr.toNat data
  obtain ⟨-, -, hke, hkf, hkh, -⟩ := keepStaged_frame k addr.toNat data.length a
  exact ⟨he.trans hke, hh.trans hkh, hf.trans hkf⟩

/-- A staged write is left whole or dropped whole (N10; log entry 16). -/
theorem writeNow_staged : b.staged = a.staged ∨ b.staged = none := by
  obtain ⟨-, -, rfl⟩ := writeNow_next.mp h
  obtain ⟨hs, -⟩ := storeBytes_frame (keepStaged k addr.toNat data.length a) addr.toNat data
  obtain ⟨-, -, -, -, -, hk⟩ := keepStaged_frame k addr.toNat data.length a
  rwa [hs]

/-- A staged write to other registers stays (R49, R55). -/
theorem writeNow_staged_kept
    (hx : ∀ p, a.staged = some p → ∀ x : Nat, addr.toNat ≤ x → x < addr.toNat + data.length →
      ¬(p.1.toNat ≤ x ∧ x < p.1.toNat + p.2.length)) : b.staged = a.staged := by
  obtain ⟨-, -, rfl⟩ := writeNow_next.mp h
  have hdisjoint : ∀ p, a.staged = some p → meets addr.toNat data.length p.1.toNat p.2.length = false := by
    intro p hp
    rw [← Bool.not_eq_true, meets_iff]
    rintro ⟨x, ⟨hlo, hhi⟩, hin⟩
    exact hx p hp x hlo hhi hin
  rw [(storeBytes_frame _ _ _).1, keepStaged_of_not_meets k addr.toNat data.length a hdisjoint]

end

/-- Settles O45: each actuator reached is described by the lemmas about `writeNow`, the reply by `writeReply`. -/
theorem writePacketStored : Obligations.WritePacketStored := by
  unfold Obligations.WritePacketStored
  intro s id addr data hrange
  obtain ⟨as, has⟩ := eachReached_completes (id := id) (f := writeNow addr data) (k := s.free) fun a ha hr _ =>
    have ⟨hin, hcross⟩ := hrange a ha hr
    ⟨_, writeNow_next.mpr ⟨hin, hcross, rfl⟩⟩
  obtain ⟨hlen, hall⟩ := eachReached_next has
  refine ⟨as, _, _, busWrite_next.mpr ⟨as, has, rfl⟩, ?_, ?_, hlen, ?_⟩
  · rintro rfl
    exact writeReply_broadcast _ _
  · intro a hid hone
    obtain ⟨j, b, ha, hb, he⟩ := writeReply_addressed (s.free + s.bus.actuators.length) hlen hid hone
    have hida : a.id = id := addressed_id hone
    obtain ⟨hr, -⟩ | ⟨-, hw⟩ := hall j a b ha hb
    · simp [reaches, hida] at hr
    · refine ⟨_, (writeNow_frame hw).1 ▸ he, ?_⟩
      split
      · exact hida ▸ writeNow_id hw
      · exact .inl hida
  · intro j a b ha hb
    obtain ⟨hr, rfl⟩ | ⟨hr, hw⟩ := hall j a b ha hb
    · exact ⟨fun _ => rfl, by simp [hr]⟩
    · obtain ⟨he, hh, hf⟩ := writeNow_frame hw
      exact ⟨by simp [hr],
        fun _ => ⟨he, hh, hf, writeNow_staged hw, writeNow_staged_kept hw, writeNow_loadByte hw⟩⟩

/-! ### A staged write and the trigger -/

/-- Settles O46. -/
theorem stagedWriteRecorded : Obligations.StagedWriteRecorded := by
  unfold Obligations.StagedWriteRecorded
  intro s id addr data hfree
  have has := eachReached_map (id := id) (f := stageWrite addr data) (k := s.free)
    (g := fun a => { a with staged := some (addr, data) }) fun a ha hr _ =>
      have ⟨hnone, hin, hcross⟩ := hfree a ha hr
      stageWrite_next.mpr ⟨hnone, hin, hcross, rfl⟩
  obtain ⟨hlen, hall⟩ := eachReached_next has
  refine ⟨_, _, busWrite_next.mpr ⟨_, has, rfl⟩, ?_, ?_⟩
  · rintro rfl
    exact writeReply_broadcast _ _
  · intro a hid hone
    obtain ⟨j, b, ha, hb, he⟩ := writeReply_addressed (s.free + s.bus.actuators.length) hlen hid hone
    have hida : a.id = id := addressed_id hone
    obtain ⟨hr, -⟩ | ⟨-, hw⟩ := hall j a b ha hb
    · simp [reaches, hida] at hr
    · obtain ⟨-, -, -, rfl⟩ := stageWrite_next.mp hw
      simpa [hida] using he

/-- The trigger leaves an actuator that holds nothing as it is (R55). -/
theorem fireStaged_none (k : Nat) {a : Actuator} (h : a.staged = none) : fireStaged k a = .next a := by
  simp [fireStaged, h]

/-- The trigger takes a held write as an immediate one of its range (R54, R55). -/
theorem fireStaged_some (k : Nat) {a : Actuator} {p : Byte × List Byte} (h : a.staged = some p) :
    fireStaged k a =
      withRange a p.1.toNat p.2.length (.next (storeBytes { a with staged := none } p.1.toNat p.2)) := by
  simp [fireStaged, h]

/-- A held write applied: the buffer is empty, the bytes are read back at ascending addresses, the rest is as before. -/
theorem storeBytes_unstaged (a : Actuator) (addr : Nat) (data : List Byte) :
    let b := storeBytes { a with staged := none } addr data
    b.staged = none ∧ b.error = a.error ∧ b.hr = a.hr ∧ b.flatRanges = a.flatRanges ∧
      ∀ x, loadByte b x = if addr ≤ x ∧ x < addr + data.length then data[x - addr]? else loadByte a x := by
  obtain ⟨hs, he, hf, hh⟩ := storeBytes_frame { a with staged := none } addr data
  exact ⟨hs, he, hh, hf, loadByte_storeBytes { a with staged := none } addr data⟩

/-- Settles O47. -/
theorem triggerAppliesStagedWrites : Obligations.TriggerAppliesStagedWrites := by
  unfold Obligations.TriggerAppliesStagedWrites
  intro s hrange
  obtain ⟨as, has⟩ : ∃ as, eachReached Config.broadcastId fireStaged s.free s.bus.actuators = .next as := by
    refine eachReached_completes fun a ha _ j => ?_
    cases hs : a.staged with
    | none => exact ⟨a, fireStaged_none j hs⟩
    | some p =>
      obtain ⟨hin, hcross⟩ := hrange a ha p hs
      exact ⟨_, (fireStaged_some j hs).trans (withRange_next.mpr ⟨hin, hcross, rfl⟩)⟩
  obtain ⟨hlen, hall⟩ := eachReached_next has
  refine ⟨as, s.free + (s.bus.actuators.length + 1), ?_, hlen, ?_⟩
  · refine busWrite_next.mpr ⟨as, has, ?_⟩
    simp [settleBus, writeReply_broadcast]
  · intro j a b ha hb
    obtain ⟨hr, -⟩ | ⟨-, hf⟩ := hall j a b ha hb
    · simp [reaches_broadcast] at hr
    · refine ⟨fun hs => ?_, fun p hs => ?_⟩
      · rw [fireStaged_none _ hs] at hf
        exact (Host.Outcome.next.inj hf).symm
      · rw [fireStaged_some _ hs] at hf
        obtain ⟨-, -, hgo⟩ := withRange_next.mp hf
        exact Host.Outcome.next.inj hgo ▸ storeBytes_unstaged a p.1.toNat p.2

/-! ### A read -/

/-- As many bytes as were asked for (R53). -/
@[simp] theorem loadBytes_length (a : Actuator) (addr k n : Nat) : (loadBytes a addr k n).length = n := by
  induction n generalizing addr k with
  | zero => rfl
  | succ n ih => simp [loadBytes, ih]

/-- A byte that is known is the one read (R53). -/
theorem loadBytes_known {a : Actuator} {addr k n i : Nat} {b : Byte} (hi : i < n)
    (h : loadByte a (addr + i) = some b) : (loadBytes a addr k n)[i]? = some b := by
  induction n generalizing addr k i with
  | zero => omega
  | succ n ih =>
    cases i with
    | zero => simp [loadBytes, show loadByte a addr = some b from h]
    | succ i =>
      rw [loadBytes, List.getElem?_cons_succ]
      exact ih (by omega) (by rwa [show addr + 1 + i = addr + (i + 1) by omega])

/-- Nobody answers a read for everybody, or for nobody attached (R52). -/
theorem busRead_nobody {id : Byte} (addr count : Byte) {s : State}
    (h : id = Config.broadcastId ∨ s.bus.actuators.filter (fun a => a.id == id) = []) :
    busRead id addr count s = .next s := by
  rcases h with h | h <;> simp [busRead, h]

section
variable {s : State} {a : Actuator} {id : Byte} (addr : Byte) {count : Byte}
  (hone : s.bus.actuators.filter (fun a => a.id == id) = [a]) (hid : id ≠ Config.broadcastId)
include hone hid

/-- A read of no bytes is refused (K19). -/
theorem busRead_zero : busRead id addr 0#8 s = .refused .zeroLengthRead := by
  simp [busRead, hid, hone]

/-- The one actuator addressed answers a read whose range has a meaning (R53). -/
theorem busRead_one (hcount : count ≠ 0#8) :
    busRead id addr count s = withRange a addr.toNat count.toNat
      (.next (settleBus s.bus.actuators (readReply a addr.toNat count.toNat s.free) count.toNat s)) := by
  simp [busRead, hid, hone, hcount]

end

/-- Settles O44. -/
theorem readPacketAnswered : Obligations.ReadPacketAnswered := by
  unfold Obligations.ReadPacketAnswered
  intro s a id addr count hone hid hcount hin hcross
  have hx : exec (.ipktRead id addr count) s =
      .next (settleBus s.bus.actuators (readReply a addr.toNat count.toNat s.free) count.toNat s) :=
    (busRead_one addr hone hid hcount).trans (withRange_next.mpr ⟨hin, hcross, rfl⟩)
  refine ⟨fun hle => ⟨loadBytes a addr.toNat s.free count.toNat, by simp, fun k b => loadBytes_known, ?_⟩,
    fun _ => ⟨_, hx⟩⟩
  rw [hx, readReply, maxReplyParams, if_pos hle, addressed_id hone]
  rfl

/-! ### Packets without meaning -/

/-- Where nothing is held a staged write is checked as an immediate one is (R44, R55). -/
theorem stageWrite_unstaged (addr : Byte) (data : List Byte) (k : Nat) {a : Actuator} (hs : a.staged = none) :
    stageWrite addr data k a =
      withRange a addr.toNat data.length (.next { a with staged := some (addr, data) }) := by
  simp [stageWrite, hs]

/-- A second staged write before the trigger is refused (N10, K19). -/
theorem stageWrite_second (addr : Byte) (data : List Byte) (k : Nat) {a : Actuator} (hs : a.staged ≠ none) :
    stageWrite addr data k a = .refused .secondStagedWrite := by
  obtain ⟨p, hp⟩ := Option.ne_none_iff_exists'.mp hs
  simp [stageWrite, hp]

section
variable {s : State} {id : Byte} {f : Nat → Actuator → Host.Outcome Actuator Fault Refusal}
  {g : Nat → Actuator → Actuator} {addr n : Nat}
  (hf : ∀ a ∈ s.bus.actuators, reaches id a = true → ∀ j, f j a = withRange a addr n (.next (g j a)))
include hf

/-- A packet that has the actuators store a range past address 255 is a fault (R44). -/
theorem busWrite_pastEnd (hx : ∃ a ∈ s.bus.actuators, reaches id a = true) (h : 256 < addr + n) :
    busWrite id f s = .fault .actuatorAddress :=
  busWrite_fault hx fun a ha hr j => (hf a ha hr j).trans (withRange_pastEnd _ h)

/-- One that has some actuator store across a register boundary is refused (R44, K19). -/
theorem busWrite_crosses (hx : ∃ a ∈ s.bus.actuators, reaches id a = true ∧ a.flatRanges = false ∧
    crossesRegister a.hr addr n = true) (h : addr + n ≤ 256) : busWrite id f s = .refused .registerBoundary := by
  obtain ⟨a, ha, hr, hflat, hc⟩ := hx
  refine busWrite_refused ⟨a, ha, hr, fun j => (hf a ha hr j).trans (withRange_crosses _ h hflat hc)⟩ ?_
  intro b hb hrb j
  rw [hf b hb hrb j]
  exact (withRange_inside b _ h).imp_right fun hgo => ⟨_, hgo⟩

end

/-- The trigger has the one attached actuator store what it holds. -/
theorem fireStaged_one {s : State} {a : Actuator} {p : Byte × List Byte} (h : s.bus.actuators = [a])
    (hs : a.staged = some p) : ∀ b ∈ s.bus.actuators, reaches Config.broadcastId b = true → ∀ j,
      fireStaged j b =
        withRange b p.1.toNat p.2.length (.next (storeBytes { b with staged := none } p.1.toNat p.2)) := by
  intro b hb _ j
  obtain rfl : b = a := by simpa [h] using hb
  exact fireStaged_some j hs

/-- A code the source does not define stops where it reaches an attached actuator, else nothing happens (R52, R73). -/
theorem exec_ipktReserved (id code : Byte) (data : List Byte) (s : State) :
    exec (.ipktReserved id code data) s =
      if s.bus.actuators.any (reaches id) then .refused .codeNotInSource else .next s := rfl

/-- Settles O48. -/
theorem packetsWithoutMeaningStop : Obligations.PacketsWithoutMeaningStop := by
  unfold Obligations.PacketsWithoutMeaningStop
  intro s a id addr code data
  have stores : ∀ b ∈ s.bus.actuators, reaches id b = true → ∀ j, writeNow addr data j b =
      withRange b addr.toNat data.length
        (.next (storeBytes (keepStaged j addr.toNat data.length b) addr.toNat data)) := fun _ _ _ _ => rfl
  have records (hnone : ∀ b ∈ s.bus.actuators, reaches id b = true → b.staged = none) :
      ∀ b ∈ s.bus.actuators, reaches id b = true → ∀ j, stageWrite addr data j b =
        withRange b addr.toNat data.length (.next { b with staged := some (addr, data) }) :=
    fun b hb hr j => stageWrite_unstaged addr data j (hnone b hb hr)
  refine ⟨busRead_zero addr, fun count hone hid hcount hpast => ?_, fun count hone hid hin hflat hc => ?_,
    fun hx hpast => ⟨busWrite_pastEnd stores hx hpast, fun hnone => busWrite_pastEnd (records hnone) hx hpast⟩,
    fun hx hin => ⟨busWrite_crosses stores hx hin, fun hnone => busWrite_crosses (records hnone) hx hin⟩,
    fun hx hrange => ?_, fun p hone hs => ⟨fun hpast => ?_, fun hin hflat hc => ?_⟩, fun hx => ?_, fun hnone => ?_⟩
  · exact (busRead_one addr hone hid hcount).trans (withRange_pastEnd _ hpast)
  · have hcount : count ≠ 0#8 := by
      rintro rfl
      simp [crossesRegister_zero] at hc
    exact (busRead_one addr hone hid hcount).trans (withRange_crosses _ hin hflat hc)
  · obtain ⟨b, hb, hr, hs⟩ := hx
    refine busWrite_refused ⟨b, hb, hr, fun j => stageWrite_second addr data j hs⟩ fun c hc hrc j => ?_
    by_cases hcs : c.staged = none
    · obtain ⟨hin, hcross⟩ := hrange c hc hrc
      exact .inr ⟨_, stageWrite_next.mpr ⟨hcs, hin, hcross, rfl⟩⟩
    · exact .inl (stageWrite_second addr data j hcs)
  · exact busWrite_pastEnd (fireStaged_one hone hs) ⟨a, by simp [hone], reaches_broadcast a⟩ hpast
  · exact busWrite_crosses (fireStaged_one hone hs) ⟨a, by simp [hone], reaches_broadcast a, hflat, hc⟩ hin
  · rw [exec_ipktReserved, if_pos (List.any_eq_true.mpr hx)]
  · rw [exec_ipktReserved, if_neg (by simpa using hnone)]

/-- Settles O51. -/
theorem onlyAddressedActuatorsReply : Obligations.OnlyAddressedActuatorsReply := by
  unfold Obligations.OnlyAddressedActuatorsReply
  intro s t id addr data hid
  have nobody : id = Config.broadcastId ∨ s.bus.actuators.filter (fun a => a.id == id) = [] :=
    hid.imp_right fun h => by simpa using h
  exact ⟨fun count => busRead_nobody addr count nobody, busWrite_no_reply nobody, busWrite_no_reply nobody⟩

end Sys2Proof.Machine
end

section
/-! SUPPORT. The bytes on the line: what the attached actuators make of them, what the receiver hears, what else the
environment does (R52, R61 to R68, R87, R91, R92), and the statements about it. -/

namespace Sys2Proof.Machine

/-! ### What the decoder reads -/

/-- An empty line holds no packet. -/
theorem decode_lineOut_ne_nil {bs rest : List Byte} {i : Instr} (h : decode .lineOut bs = .ok (i, rest)) :
    bs ≠ [] := by
  rintro rfl
  cases h

/-- Only bytes cut short or without the header are too few for the fixed part of a packet (R61, R63). -/
theorem decode_lineOut_long {bs : List Byte} {e : DecodeError} (h : decode .lineOut bs = .error e)
    (ht : e ≠ .truncated) (hb : e ≠ .badHeader) : 5 ≤ bs.length := by
  change decodeIpkt bs = .error e at h
  unfold decodeIpkt at h
  split at h
  · simp
  · obtain rfl := Except.error.inj h
    unfold shortFrame at ht hb
    split at ht <;> simp_all

/-! ### What the actuators make of it -/

/-- A packet at the head of the line's bytes is run and taken off (R52). -/
theorem actuatorsAct_packet {s : State} {i : Instr} {rest : List Byte}
    (hd : decode .lineOut s.bus.wire = .ok (i, rest)) : actuatorsAct s = exec i (takeWire rest s) := by
  obtain ⟨w, ws, hw⟩ := List.exists_cons_of_ne_nil (decode_lineOut_ne_nil hd)
  rw [hw] at hd
  simp [actuatorsAct, hw, hd]

/-- Once its ID byte has come, a frame may reach the actuators of that ID (R52). -/
theorem mayReach_of_id {bytes : List Byte} {id : Byte} (h : bytes[2]? = some id) (l : List Actuator) :
    mayReach bytes l = l.any (reaches id) := by simp [mayReach, frameId, h]

/-- Before that it may reach any attached one. -/
theorem mayReach_of_none {bytes : List Byte} (h : bytes[2]? = none) (l : List Actuator) :
    mayReach bytes l = !l.isEmpty := by simp [mayReach, frameId, h]

/-- The core still sends the frame (R141). -/
theorem frameUnderWay_iff (s : State) : frameUnderWay s = true ↔ s.pc = .txb ∨ s.pc = .lbd := by
  simp [frameUnderWay]

section
variable {s : State} {e : DecodeError} (hw : s.bus.wire ≠ []) (hd : decode .lineOut s.bus.wire = .error e)
include hw hd

/-- Bytes that are no packet: there is nothing to act on yet, or they are unreadable (R52, K19). -/
theorem actuatorsAct_error : actuatorsAct s =
    if e = .truncated ∧ (frameUnderWay s = true ∨ mayReach s.bus.wire s.bus.actuators = false) then .next s
    else unreadable e s := by
  obtain ⟨w, ws, hcons⟩ := List.exists_cons_of_ne_nil hw
  rw [hcons] at hd
  simp [actuatorsAct, hcons, hd]

/-- A frame cut short waits for its rest while the core sends it, or where it reaches nobody (R52). -/
theorem actuatorsAct_waits (he : e = .truncated)
    (h : frameUnderWay s = true ∨ mayReach s.bus.wire s.bus.actuators = false) : actuatorsAct s = .next s := by
  rw [actuatorsAct_error hw hd, if_pos ⟨he, h⟩]

/-- A frame that may reach an actuator stops by name (K19). -/
theorem actuatorsAct_stops (he : e ≠ .badHeader) (hu : e = .truncated → frameUnderWay s = false)
    (hr : mayReach s.bus.wire s.bus.actuators = true) : actuatorsAct s = .refused (frameRefusal e) := by
  rw [actuatorsAct_error hw hd, if_neg (by rintro ⟨ht, h⟩; simp [hu ht, hr] at h), unreadable, if_pos ⟨he, hr⟩]

/-- Bytes without the header, and those of a frame for nobody, pass by (R52, R63). -/
theorem actuatorsAct_passes (ht : e ≠ .truncated)
    (h : e = .badHeader ∨ mayReach s.bus.wire s.bus.actuators = false) : actuatorsAct s = .next (passBy e s) := by
  rw [actuatorsAct_error hw hd, if_neg (by simp [ht]), unreadable, if_neg (by rintro ⟨he, hr⟩; simp [he, hr] at h)]

end

/-- Bytes that bound no frame pass by, one at least (log entry 31). -/
theorem passBy_unbounded {e : DecodeError} (s : State) (h : wholeFrame e = false) : ∃ k, passBy e s =
    { s with bus := { s.bus with wire := s.bus.wire.drop (k + 1) }, free := s.free + 1 } :=
  ⟨Config.lostBytes s.free, by rw [passBy, h]; rfl⟩

/-- A whole frame passes by with the bytes its `LEN` counts (R65). -/
theorem passBy_frame {e : DecodeError} {s : State} {len : Byte} (h : wholeFrame e = true)
    (hlen : s.bus.wire[3]? = some len) :
    passBy e s = { s with bus := { s.bus with wire := s.bus.wire.drop (len.toNat + 4) } } := by
  have hl : frameLength s.bus.wire = len.toNat + 4 := by simp [frameLength, List.getD, hlen]
  rw [passBy, if_pos h, hl]
  rfl

/-- Settles O7. -/
theorem stepRunsInstructionPacket : Obligations.StepRunsInstructionPacket := by
  unfold Obligations.StepRunsInstructionPacket
  intro s es i rest he hd
  rw [step_cons he]
  exact actuatorsAct_packet (s := { s with events := es }) hd

/-- Settles O49: each kind of error waits, passes by or stops. -/
theorem bytesThatAreNoPacket : Obligations.BytesThatAreNoPacket := by
  unfold Obligations.BytesThatAreNoPacket
  intro s es e he hw hd waits passes
  set u : State := { s with events := es } with hu
  have hstep : step s = actuatorsAct u := step_cons he
  have wait (ht : e = .truncated)
      (h : frameUnderWay u = true ∨ mayReach u.bus.wire u.bus.actuators = false) : waits :=
    hstep.trans (actuatorsAct_waits (s := u) hw hd ht h)
  have stop (hb : e ≠ .badHeader) (ht : e = .truncated → s.pc ≠ .txb ∧ s.pc ≠ .lbd)
      (hr : mayReach u.bus.wire u.bus.actuators = true) : step s = .refused (frameRefusal e) :=
    hstep.trans <| actuatorsAct_stops (s := u) hw hd hb
      (fun h => Bool.eq_false_iff.mpr (mt (frameUnderWay_iff u).mp (not_or.mpr (ht h)))) hr
  have pass (ht : e ≠ .truncated) (h : e = .badHeader ∨ mayReach u.bus.wire u.bus.actuators = false) :
      step s = .next (passBy e u) := hstep.trans (actuatorsAct_passes (s := u) hw hd ht h)
  have passUnbounded (hf : wholeFrame e = false) (hp : step s = .next (passBy e u)) : passes :=
    have ⟨k, hk⟩ := passBy_unbounded u hf
    ⟨k, hp.trans (congrArg _ hk)⟩
  refine ⟨?_, fun ht hpc => wait ht (.inl ((frameUnderWay_iff u).mpr hpc)), fun ht htx hlb hid => ⟨?_, ?_⟩,
    fun id hb hid => ⟨fun hnone => ?_, fun hsome => ?_⟩⟩
  · rintro rfl
    exact passUnbounded rfl (pass (by simp) (.inl rfl))
  · intro hnil
    exact wait ht (.inr (by rw [mayReach_of_none hid]; simpa [hu] using hnil))
  · subst ht
    intro hne
    exact stop (by simp) (fun _ => ⟨htx, hlb⟩) (by rw [mayReach_of_none hid]; simpa [hu] using hne)
  · have hreach : mayReach u.bus.wire u.bus.actuators = false := by
      rw [mayReach_of_id hid]
      simpa [hu] using hnone
    refine ⟨fun ht => wait ht (.inr hreach), fun hbad => ?_, fun hwhole => ?_⟩
    · rcases hbad with rfl | rfl <;> exact passUnbounded rfl (pass (by simp) (.inr hreach))
    · have hframe : wholeFrame e = true ∧ e ≠ .truncated := by
        rcases hwhole with rfl | rfl | rfl <;> exact ⟨rfl, by simp⟩
      have hlong : 5 ≤ s.bus.wire.length := decode_lineOut_long hd hframe.2 hb
      have hlen : s.bus.wire[3]? = some s.bus.wire[3] := List.getElem?_eq_getElem (by omega)
      exact ⟨_, hlen, (pass hframe.2 (.inr hreach)).trans (congrArg _ (passBy_frame (s := u) hframe.1 hlen))⟩
  · have hreach : mayReach u.bus.wire u.bus.actuators = true := by
      rw [mayReach_of_id hid]
      exact List.any_eq_true.mpr hsome
    refine ⟨fun ht htx hlb => ?_, fun htrig => ?_, fun hframe => ?_⟩
    · subst ht
      exact stop hb (fun _ => ⟨htx, hlb⟩) hreach
    · subst htrig
      exact stop hb (by simp) hreach
    · rcases hframe with rfl | rfl | rfl | rfl <;> exact stop hb (by simp) hreach

/-! ### What the receiver hears -/

/-- Out of reset the receiver listens while `DIR = IN`, and always with `CFG.LB = 1` (R91). -/
theorem listening_iff {s : State} (h : s.rst = false) :
    listening s = true ↔ s.dir = .input ∨ s.cfg.getLsbD 1 = true := by
  simp [listening, loopBack, h]

/-- A listening receiver with room takes the byte (R91). -/
theorem capture_room {s : State} (b : Byte) (hl : listening s = true) (hq : s.rxq.length < 32) :
    capture b s = { s with rxq := s.rxq ++ [b] } := by
  simp [capture, hl, Config.rxqDepth, hq, Nat.not_le_of_lt hq]

/-- A listening receiver with a full queue drops the byte and says so (R92). -/
theorem capture_full {s : State} (b : Byte) (hl : listening s = true) (hq : 32 ≤ s.rxq.length) :
    capture b s = { s with ovr := true } := by
  simp [capture, hl, Config.rxqDepth, hq, Nat.not_lt_of_le hq]

/-- A receiver that does not listen hears nothing (R91). -/
theorem capture_deaf {s : State} (b : Byte) (hl : listening s = false) : capture b s = s :=
  captureAll_not_listening [b] s hl

/-- A byte on the line and a byte owed arrive alike; the latter is owed no more (R52). -/
theorem step_captures {s u : State} {b : Byte} {es : List Event}
    (h : s.events = .line b :: es ∧ u = { s with events := es } ∨
      ∃ q, s.events = .reply :: es ∧ s.bus.reply = b :: q ∧
        u = { s with events := es, bus := { s.bus with reply := q } }) :
    step s = .next (capture b u) ∧ u.rst = s.rst ∧ u.dir = s.dir ∧ u.cfg = s.cfg ∧ u.rxq = s.rxq := by
  obtain ⟨he, rfl⟩ | ⟨q, he, hq, rfl⟩ := h
  · exact ⟨step_cons he, rfl, rfl, rfl, rfl⟩
  · refine ⟨?_, rfl, rfl, rfl, rfl⟩
    rw [step_cons he, runEvent, deliverReply, hq]

/-- Settles O33. -/
theorem captureAndOverrun : Obligations.CaptureAndOverrun := by
  unfold Obligations.CaptureAndOverrun
  refine ⟨fun s u b es hrst harrives => ?_, fun s es he hnone => ?_⟩
  · obtain ⟨hstep, hr, hdir, hcfg, hq⟩ := step_captures harrives
    have hl : listening u = true ↔ s.dir = .input ∨ s.cfg.getLsbD 1 = true := by
      rw [listening_iff (hr.trans hrst), hdir, hcfg]
    refine ⟨fun hin hroom => ?_, fun hin hfull => ?_, fun hout hlb => ?_⟩
    · rw [hstep, capture_room b (hl.mpr hin) (hq ▸ hroom), hq]
    · rw [hstep, capture_full b (hl.mpr hin) (hq ▸ hfull)]
    · rw [hstep, capture_deaf b (Bool.eq_false_iff.mpr (mt hl.mp (by rw [hout, hlb]; decide)))]
  · rw [step_cons he, runEvent, deliverReply, hnone]

/-! ### What else the environment does -/

/-- One actuator changes, the others stay (R46, R57). -/
theorem changeActuator_getElem? {k j : Nat} {f : Actuator → Actuator} {s : State} {a b : Actuator}
    (ha : s.bus.actuators[j]? = some a) (hb : (changeActuator k f s).bus.actuators[j]? = some b) :
    b = if j = k then f a else a := by
  have hmod : (s.bus.actuators.modify k f)[j]? = some b := hb
  rw [List.getElem?_modify, ha] at hmod
  simpa [eq_comm] using hmod.symm

/-- Settles O50. -/
theorem environmentEvents : Obligations.EnvironmentEvents := by
  unfold Obligations.EnvironmentEvents
  intro s es
  set u : State := { s with events := es } with hu
  refine ⟨fun id hr flat he => step_cons he, fun k addr value he => ?_, fun k error he => ?_, fun he hrst => ?_⟩
  · refine ⟨_, step_cons he, List.length_modify _ _ _, fun j a b ha hb => ?_⟩
    have hab := changeActuator_getElem? (s := u) (f := fun a => storeByte a addr.toNat value) ha hb
    refine ⟨fun hj => by rw [hab, if_neg hj], fun hj => ?_⟩
    rw [if_pos hj] at hab
    subst hab
    obtain ⟨hs, herr, hf, hh⟩ := storeBytes_frame a addr.toNat [value]
    exact ⟨hs, herr, hh, hf, loadByte_storeByte a addr.toNat value⟩
  · exact ⟨_, step_cons he, List.length_modify _ _ _, fun j a b ha hb =>
      changeActuator_getElem? (s := u) (f := fun a => { a with error := error }) ha hb⟩
  · have hstep : step s = .next (loseReply u) := by
      rw [step_cons he, runEvent, unlessReset, if_neg (by simp [hrst])]
    rw [hstep]
    obtain ⟨hpc, hlose⟩ | ⟨hpc, hlose⟩ := loseReply_cases u <;> rw [hlose]
    · exact ⟨fun _ => rfl, fun hne => absurd hpc hne⟩
    · exact ⟨fun htx => absurd htx hpc, fun _ => rfl⟩

end Sys2Proof.Machine
end

section
/-! SUPPORT. The encodings of R61 to R76: what the decoder reads from each channel, said once as an equivalence with the
encoder, and the statements about them. -/

namespace Sys2Proof.Machine

/-! ### A value of `OP` -/

/-- The reserved opcodes are the values without a row in R75 (R76). -/
theorem decodeOp_eq_reservedOp_iff (op : Byte) : decodeOp op = .reservedOp op ↔ isReservedOp op = true := by
  revert op
  decide

/-- The values without a row in R75 are the five ranges of R76. -/
theorem isReservedOp_iff (op : Byte) : isReservedOp op = true ↔
    op.toNat ≤ 0x0F ∨ (0x12 ≤ op.toNat ∧ op.toNat ≤ 0x1F) ∨ (0x23 ≤ op.toNat ∧ op.toNat ≤ 0x2F) ∨
      (0x38 ≤ op.toNat ∧ op.toNat ≤ 0x3F) ∨ 0x45 ≤ op.toNat := by
  revert op
  decide

/-- What `OP` names is an operation of R75, or reserved with that very value (R76). -/
theorem wellFormed_decodeOp (op : Byte) : (decodeOp op).wellFormed = true := by
  revert op
  decide

/-- A host operation is one byte, and the one that names it (R74, R75). -/
theorem encode_host {i : Instr} (hc : channelOf i = .host) (hw : i.wellFormed = true) :
    ∃ op, encode i = [op] ∧ decodeOp op = i := by
  cases i
  case reservedOp op => exact ⟨op, rfl, (decodeOp_eq_reservedOp_iff op).mpr hw⟩
  case ipktRead | ipktWrite | ipktRegWrite | ipktAction | spkt | ipktReserved => cases hc
  all_goals exact ⟨_, rfl, rfl⟩

/-- A reserved opcode fails check 1 of R140, so it ends in the step that accepts it (R76). -/
theorem exec_reservedOp (op : Byte) {s : State} (h : s.busy = false) :
    exec (.reservedOp op) s = .next (refusedState op 1#8 s) :=
  accept_refused op (fun _ => [(true, .badOp)]) (fun s => s) s .badOp h rfl

/-! ### A status packet -/

/-- A status packet is read wherever there are bytes enough for the count the operation expects (R62, R72, R104). -/
theorem decode_lineIn_eq_ok_iff {n : Nat} {bs rest : List Byte} {i : Instr} :
    decode (.lineIn n) bs = .ok (i, rest) ↔
      6 + n ≤ bs.length ∧ statusPacket bs n = i ∧ bs.drop (6 + n) = rest := by
  by_cases h : bs.length < 6 + n
  · simp [decode, h]
  · simp [decode, h, Nat.le_of_not_lt h]

/-- The bytes of a status packet are read back by position (R62, R104). -/
theorem statusPacket_encode (hdr0 hdr1 id len error : Byte) (params : List Byte) (chk : Byte) (rest : List Byte) :
    statusPacket (encode (.spkt hdr0 hdr1 id len error params chk) ++ rest) params.length =
      .spkt hdr0 hdr1 id len error params chk := by
  have hchk : (encode (.spkt hdr0 hdr1 id len error params chk) ++ rest).getD (5 + params.length) 0#8 = chk := by
    simp [encode, Nat.add_comm 5]
  rw [statusPacket, hchk]
  simp [encode]

/-! ### An instruction packet -/

/-- The instruction that the `ID`, the code and the parameters of a packet stand for (R66, R69 to R71, R73). The code
0x04 is that of the trigger and of REG_WRITE; the parameters tell them apart (K4). -/
inductive PacketOf : Byte → Byte → List Byte → Instr → Prop where
  | read (id addr count : Byte) : PacketOf id Config.readCode [addr, count] (.ipktRead id addr count)
  | write (id addr : Byte) (data : List Byte) :
      PacketOf id Config.writeCode (addr :: data) (.ipktWrite id addr data)
  | regWrite (id addr : Byte) (data : List Byte) :
      PacketOf id Config.regWriteCode (addr :: data) (.ipktRegWrite id addr data)
  | action : PacketOf Config.broadcastId Config.actionCode [] .ipktAction
  | reserved (id code : Byte) (params : List Byte) (unknown : isReservedCode code = true) :
      PacketOf id code params (.ipktReserved id code params)

/-- A code the source does not define is none of its three values (R66, R73). -/
theorem isReservedCode_iff (code : Byte) :
    isReservedCode code = true ↔ code ≠ Config.readCode ∧ code ≠ Config.writeCode ∧ code ≠ Config.regWriteCode := by
  simp [isReservedCode, Config.actionCode, Config.regWriteCode, and_assoc]

/-- The decoder's classification is exactly the table of forms. -/
theorem classify_eq_ok_iff {id code : Byte} {params : List Byte} {i : Instr} :
    classify id code params = .ok i ↔ PacketOf id code params i := by
  constructor
  · intro h
    unfold classify at h
    split at h
    case isTrue ht =>
      obtain ⟨rfl, rfl⟩ := ht
      split at h
      case isTrue hid => cases h; exact hid ▸ .action
      case isFalse => cases h
    split at h
    case isTrue hc =>
      subst hc
      split at h <;> cases h
      exact .read ..
    split at h
    case isTrue hc =>
      subst hc
      split at h <;> cases h
      exact .write ..
    split at h
    case isTrue hc =>
      subst hc
      split at h <;> cases h
      exact .regWrite ..
    split at h
    case isTrue => cases h
    case isFalse hread hwrite hreg _ =>
      cases h
      exact .reserved _ _ _ ((isReservedCode_iff code).mpr ⟨hread, hwrite, hreg⟩)
  · rintro (_ | _ | _ | _ | ⟨_, _, _, hcode⟩)
    case reserved =>
      obtain ⟨hread, hwrite, hreg⟩ := (isReservedCode_iff code).mp hcode
      have haction : code ≠ Config.actionCode := hreg
      simp [classify, hread, hwrite, hreg, haction]
    all_goals rfl

namespace PacketOf

variable {id code : Byte} {params : List Byte} {i : Instr}

/-- The encoder writes the packet of that `ID`, code and parameters (R61). -/
theorem encode_eq (h : PacketOf id code params i) : encode i = packet id code params := by
  cases h <;> rfl

/-- The form is well formed exactly when its parameters fit a packet (R61). -/
theorem wellFormed_iff (h : PacketOf id code params i) :
    i.wellFormed = true ↔ params.length ≤ Config.maxParams := by
  cases h with
  | read | action => simp [Instr.wellFormed, Config.maxParams]
  | write | regWrite => simp [Instr.wellFormed, isWriteData]
  | reserved _ _ _ hcode => simp [Instr.wellFormed, isParams, hcode]

end PacketOf

/-- Every well-formed form of the line out is the form of some packet. -/
theorem exists_packetOf {i : Instr} (hc : channelOf i = .lineOut) (hw : i.wellFormed = true) :
    ∃ id code params, PacketOf id code params i := by
  cases i
  case ipktRead id addr count => exact ⟨_, _, _, .read id addr count⟩
  case ipktWrite id addr data => exact ⟨_, _, _, .write id addr data⟩
  case ipktRegWrite id addr data => exact ⟨_, _, _, .regWrite id addr data⟩
  case ipktAction => exact ⟨_, _, _, .action⟩
  case ipktReserved id code params => exact ⟨_, _, _, .reserved id code params (Bool.and_eq_true_iff.mp hw).1⟩
  all_goals cases hc

/-- `LEN` counts two more than the parameters of a packet (R65). -/
theorem lenByte_toNat {params : List Byte} (h : params.length ≤ Config.maxParams) :
    (lenByte params).toNat = params.length + 2 := by
  have : Config.maxParams = 14 := rfl
  simp [lenByte]
  omega

/-- A byte is the `LEN` of as many parameters as it counts (R65). -/
theorem eq_lenByte {len : Byte} {params : List Byte} (h : len.toNat = params.length + 2) : len = lenByte params := by
  rw [lenByte, ← h, BitVec.ofNat_toNat, BitVec.setWidth_eq]

/-- The packet of at most 14 parameters passes every check of the frame and is left to its classification. -/
theorem decodeIpkt_packet (id code : Byte) {params : List Byte} (rest : List Byte)
    (h : params.length ≤ Config.maxParams) :
    decodeIpkt (packet id code params ++ rest) = (classify id code params).map fun i => (i, rest) := by
  have hlen : (lenByte params).toNat = params.length + 2 := lenByte_toNat h
  simp [packet, coveredBytes, decodeIpkt, hlen, Nat.not_lt_of_le h]

/-- Bytes that pass every check of the frame are the packet of the `ID`, code and parameters found in it (R61, R63, R65,
R101). -/
theorem decodeIpkt_ok {bs rest : List Byte} {i : Instr} (h : decodeIpkt bs = .ok (i, rest)) :
    ∃ id code params, params.length ≤ Config.maxParams ∧ classify id code params = .ok i ∧
      bs = packet id code params ++ rest := by
  unfold decodeIpkt at h
  split at h
  case h_2 => cases h
  case h_1 h0 h1 id len code tail =>
  split at h
  case isTrue => cases h
  case isFalse hheader =>
  split at h
  case isTrue => cases h
  case isFalse hlow =>
  split at h
  case isTrue => cases h
  case isFalse hlong =>
  split at h
  case h_1 => cases h
  case h_2 chk after hdrop =>
  split at h
  case isTrue => cases h
  case isFalse hchk =>
  split at h
  case isTrue => cases h
  case isFalse hmost =>
  obtain ⟨rfl, rfl⟩ : h0 = Config.header ∧ h1 = Config.header := by simpa using hheader
  have hcount : (tail.take (len.toNat - 2)).length = len.toNat - 2 := List.length_take_of_le (by omega)
  have htail : tail = tail.take (len.toNat - 2) ++ chk :: after := by rw [← hdrop, List.take_append_drop]
  generalize tail.take (len.toNat - 2) = params at hcount htail hchk h
  obtain rfl : len = lenByte params := eq_lenByte (by omega)
  obtain rfl : chk = checksum (coveredBytes id code params) := not_not.mp hchk
  obtain ⟨j, hj, hpair⟩ : ∃ j, classify id code params = .ok j ∧ (j, after) = (i, rest) := by
    cases hc : classify id code params with
    | error e => simp [hc, Except.map] at h
    | ok j => exact ⟨j, rfl, by simpa [hc, Except.map] using h⟩
  obtain ⟨rfl, rfl⟩ := Prod.mk.inj hpair
  refine ⟨id, code, params, by omega, hj, ?_⟩
  rw [htail]
  simp [packet, coveredBytes]

/-- What the actuators read from the line: the packet of some form, with at most 14 parameters, and what follows it. -/
theorem decode_lineOut_eq_ok_iff {bs rest : List Byte} {i : Instr} :
    decode .lineOut bs = .ok (i, rest) ↔ ∃ id code params, PacketOf id code params i ∧
      params.length ≤ Config.maxParams ∧ bs = packet id code params ++ rest := by
  constructor
  · intro h
    obtain ⟨id, code, params, hmost, hclass, hbytes⟩ := decodeIpkt_ok h
    exact ⟨id, code, params, classify_eq_ok_iff.mp hclass, hmost, hbytes⟩
  · rintro ⟨id, code, params, hform, hmost, rfl⟩
    rw [decode, decodeIpkt_packet id code rest hmost, classify_eq_ok_iff.mpr hform]
    rfl

/-! ### The last byte of a status packet -/

/-- One byte of a status packet is taken from the head of the queue (R141). -/
theorem receiveByte_cons {s : State} {b : Byte} {q : List Byte} (h : s.rxq = b :: q) :
    receiveByte s =
      { s with rxq := q, rxbuf := s.rxbuf.setIfInBounds s.rxi b, rxi := s.rxi + 1, waitCnt := 0#32 } := by
  simp [receiveByte, popRxq, headRxq, h]

/-- The last byte makes the decoder execute the packet received (R104, R149). -/
theorem seqRx_lastByte {s : State} (hpc : s.pc = .rxb) (hq : s.rxq ≠ []) (hop : s.op ≠ 0x11#8)
    (hlast : s.rxi + 1 = s.rxn) : seqRx s = exec (receivedPacket (receiveByte s)) (receiveByte s) := by
  rw [seqRx, if_pos ⟨hpc, hq⟩, if_neg (mt (decodeOp_eq_linkRx s.op).mp hop)]
  exact if_pos hlast

/-! ### The statements -/

/-- Settles O1, channel by channel. -/
theorem decodeUndoesEncode : Obligations.DecodeUndoesEncode := by
  unfold Obligations.DecodeUndoesEncode
  intro i rest hw
  cases hc : channelOf i with
  | host =>
    obtain ⟨op, hbytes, hop⟩ := encode_host hc hw
    rw [hbytes, ← hop]
    rfl
  | lineOut =>
    obtain ⟨id, code, params, hform⟩ := exists_packetOf hc hw
    exact decode_lineOut_eq_ok_iff.mpr
      ⟨id, code, params, hform, hform.wellFormed_iff.mp hw, by rw [hform.encode_eq]⟩
  | lineIn n =>
    cases i
    case spkt hdr0 hdr1 id len error params chk =>
      obtain rfl : params.length = n := Channel.lineIn.inj hc
      refine decode_lineIn_eq_ok_iff.mpr ⟨?_, statusPacket_encode .., ?_⟩
      · simp [encode]; omega
      · exact List.drop_left' (by simp [encode]; omega)
    all_goals cases hc

/-- Settles O2. -/
theorem decodedPacketsAreEncodings : Obligations.DecodedPacketsAreEncodings := by
  unfold Obligations.DecodedPacketsAreEncodings
  intro bs rest i h
  obtain ⟨id, code, params, hform, hmost, rfl⟩ := decode_lineOut_eq_ok_iff.mp h
  exact ⟨hform.wellFormed_iff.mpr hmost, by rw [hform.encode_eq]⟩

/-- Settles O3. -/
theorem everyOpcodeByteIsDecoded : Obligations.EveryOpcodeByteIsDecoded := by
  unfold Obligations.EveryOpcodeByteIsDecoded
  exact fun op => ⟨wellFormed_decodeOp op, encode_decodeOp op, decodeOp_eq_reservedOp_iff op⟩

/-- Settles O4: each word is the encoding of its instruction, so the decoder gives it back. -/
theorem specWordsDecode : Obligations.SpecWordsDecode := by
  unfold Obligations.SpecWordsDecode
  exact ⟨decodeUndoesEncode .read [] rfl, decodeUndoesEncode .setId [] rfl,
    decodeUndoesEncode (.reservedOp 0x45#8) [] rfl,
    decodeUndoesEncode (.ipktRead 0x01#8 0x24#8 0x02#8) [] rfl,
    decodeUndoesEncode (.ipktWrite 0x01#8 0x1E#8 [0xAA#8, 0x06#8]) [] rfl,
    decodeUndoesEncode (.ipktRegWrite 0x01#8 0x1E#8 [0x00#8, 0x04#8]) [] rfl,
    decodeUndoesEncode .ipktAction [] rfl,
    decodeUndoesEncode (.spkt 0xFF#8 0xFF#8 0x01#8 0x03#8 0x20#8 [0x78#8] 0x63#8) [] rfl⟩

/-- Settles O8. -/
theorem stepRunsStatusPacket : Obligations.StepRunsStatusPacket := by
  unfold Obligations.StepRunsStatusPacket
  intro s es b q i rest he hrst hpc hq hop hlast t hd
  set u : State := { s with events := es } with hu
  have ht : receiveByte u = t := receiveByte_cons (s := u) hq
  obtain ⟨-, rfl, -⟩ := decode_lineIn_eq_ok_iff.mp hd
  calc step s = seqRx u := by rw [step_cons he, runEvent, unlessReset, if_neg (by simp [hrst])]
    _ = exec (receivedPacket (receiveByte u)) (receiveByte u) :=
        seqRx_lastByte (s := u) hpc (by simp [hu, hq]) hop hlast
    _ = exec (statusPacket t.rxbuf.toList s.nexp) t := by rw [ht]; rfl

/-- Settles O21. -/
theorem reservedOpcodeCompletes : Obligations.ReservedOpcodeCompletes := by
  unfold Obligations.ReservedOpcodeCompletes
  exact ⟨fun s op h => exec_reservedOp op h, fun op => (decodeOp_eq_reservedOp_iff op).trans (isReservedOp_iff op)⟩

end Sys2Proof.Machine
end

section
/-! SUPPORT. The link: a byte sent, looped back and drained, what follows a frame, the waits, and what goes on the line
(R86 to R98, R148, R149), and the statements about it. -/

namespace Sys2Proof.Machine

/-! ### A step of the sequencer -/

/-- Out of reset the sequencer's step is taken (R215). -/
theorem step_unlessReset {s : State} {e : Event} {es : List Event} {go : Out} (he : s.events = e :: es)
    (hrst : s.rst = false) (hrun : runEvent e { s with events := es } = unlessReset { s with events := es } go) :
    step s = go := by
  rw [step_cons he, hrun, unlessReset, if_neg (by simp [hrst])]

/-! ### Completion -/

/-- Completion without an error reports what the replies left (R146, R195). -/
theorem complete_ok (s : State) : complete .ok s = endedState (if s.malformed then 0xB#8 else 0#8) s := by
  cases h : s.malformed <;> simp [complete, endedState, finalCode, h, Completion.code]

/-- Any other code is reported as it is (R146, R195). -/
theorem complete_raised {c : Completion} (h : c ≠ .ok) (s : State) : complete c s = endedState c.code s := by
  simp [complete, endedState, finalCode, h]

/-! ### Acceptance of the link operations -/

/-- With no flag, at least one byte and at most 14, `LINK_TX` loads them (R95, R140). -/
theorem execLinkTx_runs {s : State} (hb : s.busy = false) (hf : s.cmdFlags = 0#8) (hsome : 1 ≤ s.cmdCount.toNat)
    (hmost : s.cmdCount.toNat ≤ 14) : execLinkTx s = .next (loadFrame (operandBytes s) (beginOp 0x10#8 s)) := by
  refine accept_runs _ _ _ s hb (firstFail_eq_none.mpr ?_)
  have hcount : (s.cmdCount == 0#8) = false := beq_eq_false_iff_ne.mpr fun h => by simp [h] at hsome
  simp only [List.forall_mem_cons, List.not_mem_nil, false_implies, implies_true, and_true]
  exact ⟨badFlags_of_zero noFlags hf, (countCheck_eq_false _ s).mpr hmost, hcount⟩

/-- With no flag `LINK_RX` begins its wait (R96, R140). -/
theorem execLinkRx_runs {s : State} (hb : s.busy = false) (hf : s.cmdFlags = 0#8) :
    execLinkRx s = .next (awaitByte (beginOp 0x11#8 s)) := by
  refine accept_runs _ _ _ s hb (firstFail_eq_none.mpr ?_)
  simp only [List.forall_mem_cons, List.not_mem_nil, false_implies, implies_true, and_true]
  exact badFlags_of_zero noFlags hf

/-- Settles O13. -/
theorem linkOperationsAccepted : Obligations.LinkOperationsAccepted := by
  unfold Obligations.LinkOperationsAccepted
  refine ⟨fun s hb hf hsome hmost => ?_, fun s hb hf => execLinkRx_runs hb hf⟩
  have hlen : (operandBytes s).length = s.cmdCount.toNat := operandBytes_length hmost
  calc exec .linkTx s = .next (loadFrame (operandBytes s) (beginOp 0x10#8 s)) := execLinkTx_runs hb hf hsome hmost
    _ = _ := by rw [loadFrame, hlen]; rfl

/-! ### What follows a byte -/

/-- A frame not yet over goes on with its next byte (R149 `AFTER_BYTE`). -/
theorem afterByte_unfinished {s : State} (h : s.txi < s.txn) : afterByte s = { s with pc := .txb } := if_pos h

/-- The packet of a two-byte write, byte by byte (R61, R101, R160). -/
theorem packet_eq_wideFrame (target instr addr : Byte) (raw : Nat) :
    packet target instr [addr, BitVec.ofNat 8 raw, BitVec.ofNat 8 (raw / 256)] = wideFrame target instr addr raw := by
  simp [packet, coveredBytes, checksum, byteSum, lenByte, wideFrame, Config.header, BitVec.add_assoc]

/-- A transaction begins with its packet loaded (R102, R141). -/
theorem transact_eq_nextFrameState (target instr : Byte) (params : List Byte) (nexp : Nat) (s : State) :
    transact target instr params nexp s = nextFrameState target (packet target instr params) nexp s := by
  unfold transact
  generalize packet target instr params = frame
  rfl

/-- An immediate write of a value two bytes wide loads its frame (R160). -/
theorem setAttr_wide {attr : Attr} {addr : Byte} {s : State} (target : Byte) (raw : Nat)
    (h : regmap attr (isHR s) = some (addr, 2)) :
    setAttr target attr raw false s = nextFrameState target (wideFrame target 0x03#8 addr raw) 0 s := by
  calc setAttr target attr raw false s
      = transact target Config.writeCode [addr, BitVec.ofNat 8 raw, BitVec.ofNat 8 (raw / 256)] 0 s := by
        rw [setAttr, h]
        exact if_pos rfl
    _ = nextFrameState target (wideFrame target Config.writeCode addr raw) 0 s := by
        rw [transact_eq_nextFrameState, packet_eq_wideFrame]

/-- A broadcast write or trigger ends with its frame (R147). -/
theorem afterTransaction_plain {s : State}
    (h : s.op ∈ [0x21#8, 0x22#8, 0x31#8, 0x32#8, 0x33#8, 0x34#8, 0x35#8, 0x37#8]) :
    afterTransaction s = complete .ok s := by
  unfold afterTransaction
  simp only [List.mem_cons, List.not_mem_nil, or_false] at h
  rcases h with h | h | h | h | h | h | h | h <;> rw [h] <;> rfl

/-- The rule of `SET_GOAL` (R161). -/
theorem afterTransaction_setGoal {s : State} (h : s.op = 0x30#8) : afterTransaction s = continueSetGoal s := by
  rw [afterTransaction, h]; rfl

/-- The rule of `SET_MODE` (R167). -/
theorem afterTransaction_setMode {s : State} (h : s.op = 0x36#8) : afterTransaction s = continueSetMode s := by
  rw [afterTransaction, h]; rfl

/-- The end of a frame that is not `LINK_TX`'s and not broadcast (R141). -/
theorem afterByte_addressed {s : State} (hend : s.txn ≤ s.txi) (hop : s.op ≠ 0x10#8) (ht : s.tgt ≠ 0xFE#8) :
    afterByte s = enterSettle s := by
  rw [afterByte, if_neg (by omega), if_neg (mt (decodeOp_eq_linkTx s.op).mp hop)]
  exact if_neg ht

/-- The end of a broadcast frame (R147). -/
theorem afterByte_broadcast {s : State} (hend : s.txn ≤ s.txi) (hop : s.op ≠ 0x10#8) (ht : s.tgt = 0xFE#8) :
    afterByte s = afterTransaction (broadcastDone s) := by
  rw [afterByte, if_neg (by omega), if_neg (mt (decodeOp_eq_linkTx s.op).mp hop)]
  exact if_pos ht

/-- The end of the raw bytes of `LINK_TX` (R95). -/
theorem afterByte_linkTx {s : State} (hend : s.txn ≤ s.txi) (hop : s.op = 0x10#8) : afterByte s = complete .ok s := by
  rw [afterByte, if_neg (by omega), if_pos ((decodeOp_eq_linkTx s.op).mpr hop)]

/-- The second and the third write of a broadcast `SET_MODE`, and its end (R147, R167). -/
theorem continueSetMode_cases (s : State) :
    (s.sub = 0 → continueSetMode s =
      { nextFrameState s.devId (wideFrame s.devId 0x03#8 0x08#8 (if s.val = 0#32 then 3413 else 0)) 0 s with
        sub := 1 }) ∧
    (s.sub = 1 → continueSetMode s =
      { nextFrameState s.devId (wideFrame s.devId 0x03#8 0x20#8 0) 0 s with sub := 2 }) ∧
    (s.sub = 2 → continueSetMode s = complete .ok s) := by
  refine ⟨fun h => ?_, fun h => ?_, fun h => ?_⟩ <;> rw [continueSetMode]
  · have hccw : modeCcw s = if s.val = 0#32 then 3413 else 0 := rfl
    rw [if_pos h, modeWrite, hccw]
    exact setAttr_wide s.devId _ rfl
  · rw [if_neg (by omega), if_pos h]
    exact setAttr_wide (attr := .movingSpeed) s.devId 0 rfl
  · rw [if_neg (by omega), if_neg (by omega)]

/-- What follows the last byte of a frame (R149 `AFTER_BYTE`, R147). -/
theorem afterByte_frameSent {s : State} (hend : s.txn ≤ s.txi) : FrameSent s (afterByte s) := by
  set u : State := broadcastDone s with hu
  have broadcast (hop : s.op ≠ 0x10#8) (ht : s.tgt = 0xFE#8) : afterByte s = afterTransaction u :=
    afterByte_broadcast hend hop ht
  have ended : complete .ok u =
      { endedState (if s.malformed then 0xB#8 else 0#8) s with err := 0#8, rcount := 0#8 } := complete_ok u
  refine ⟨fun hop => ?_, fun hop ht => afterByte_addressed hend hop ht, fun ht hop => ?_, fun ht hop hb => ?_,
    fun ht hop => ?_⟩
  · rw [afterByte_linkTx hend hop, complete_ok]
  · rw [broadcast (by rintro h; simp [h] at hop) ht, ← ended]
    exact afterTransaction_plain (s := u) hop
  · have hnone : ¬blocking u = true := by simpa [blocking, hu] using hb
    rw [broadcast (by simp [hop]) ht, afterTransaction_setGoal (s := u) hop, ← ended]
    exact if_neg hnone
  · obtain ⟨second, third, last⟩ := continueSetMode_cases u
    rw [broadcast (by simp [hop]) ht, afterTransaction_setMode (s := u) hop, ← ended]
    exact ⟨second, third, last⟩

/-! ### A byte sent -/

/-- Without loop-back a byte is driven and the receiver is deaf meanwhile (R87). -/
theorem seqTx_noLoopBack (heard : List Byte) {s : State} (hpc : s.pc = .txb) (hlb : s.cfg.getLsbD 1 = false) :
    seqTx heard s = afterByte
      { s with
        dir := .input
        txi := s.txi + 1
        bus := { s.bus with
          sent := s.bus.sent ++ [byteAt s.txbuf s.txi]
          wire := s.bus.wire ++ [byteAt s.txbuf s.txi] } } := by
  have hdeaf : loopBack s = false := hlb
  rw [seqTx, if_pos hpc, if_neg (by simp [hdeaf]), sendByte_noLoopBack _ _ _ hdeaf]
  rfl

/-- Settles O29. -/
theorem transmitWithoutLoopBack : Obligations.TransmitWithoutLoopBack := by
  unfold Obligations.TransmitWithoutLoopBack
  intro s heard es he hrst hpc hlb hmore
  have hstep := step_unlessReset he hrst rfl
  rw [hstep, seqTx_noLoopBack (s := { s with events := es }) heard hpc hlb, afterByte_unfinished hmore, ← hpc]

/-- One byte sent in loop-back mode (R88): the receiver takes what it hears while there is room. -/
theorem sendByte_loopBack (b : Byte) (heard : List Byte) {s : State} (hrst : s.rst = false)
    (hlb : loopBack s = true) :
    sendByte b heard s =
      { s with
        dir := .input
        rxq := s.rxq ++ heard.take (32 - s.rxq.length)
        ovr := s.ovr || decide (32 - s.rxq.length < heard.length)
        bus := { s.bus with sent := s.bus.sent ++ [b], wire := s.bus.wire ++ [b] } } := by
  have hl : listening (drive b (setDir .output s)) = true := (listening_iff (by simpa using hrst)).mpr (.inr hlb)
  rw [sendByte, captureAll_listening heard _ hl]
  rfl

/-- Settles O31. -/
theorem transmitWithLoopBack : Obligations.TransmitWithLoopBack := by
  unfold Obligations.TransmitWithLoopBack
  intro s heard es he hrst hpc hlb
  set u : State := { s with events := es } with hu
  have htx : seqTx heard u = { sendByte (currentByte u) heard u with pc := .lbd, waitCnt := 0#32 } := by
    rw [seqTx, if_pos hpc]
    exact if_pos hlb
  have hstep : step s = .next (seqTx heard u) := step_unlessReset he hrst rfl
  rw [hstep, htx, sendByte_loopBack (s := u) _ heard hrst hlb]
  rfl

/-- The oldest byte is taken from the queue and compared (R88). -/
theorem seqDrain_cons {s : State} {e : Byte} {q : List Byte} (hpc : s.pc = .lbd) (hq : s.rxq = e :: q) :
    seqDrain s = afterByte
      { s with
        rxq := q
        lbMismatch := s.lbMismatch || e != byteAt s.txbuf s.txi
        txi := s.txi + 1 } := by
  rw [seqDrain, if_pos ⟨hpc, by simp [hq]⟩]
  simp [popRxq, headRxq, currentByte, hq]

/-- Settles O32. -/
theorem loopBackDrain : Obligations.LoopBackDrain := by
  unfold Obligations.LoopBackDrain
  intro s es e q he hrst hpc hq u
  have hdrain : seqDrain { s with events := es } = afterByte u := seqDrain_cons hpc hq
  have hstep : step s = .next (afterByte u) := hdrain ▸ step_unlessReset he hrst rfl
  exact ⟨fun hmore => hstep.trans (congrArg _ (afterByte_unfinished hmore)),
    fun hend => ⟨_, hstep, afterByte_frameSent hend⟩⟩

/-! ### A byte received by `LINK_RX` -/

/-- `LINK_RX` ends with the oldest byte of the queue as its result (R96, R146). -/
theorem seqRx_linkRx {s : State} {b : Byte} {q : List Byte} (hpc : s.pc = .rxb) (hq : s.rxq = b :: q)
    (hop : s.op = 0x11#8) :
    seqRx s = .next
      { endedState (if s.malformed then 0xB#8 else 0#8) s with rxq := q, result := b.setWidth 32 } := by
  rw [seqRx, if_pos ⟨hpc, by simp [hq]⟩, if_pos ((decodeOp_eq_linkRx s.op).mpr hop), finishLinkRx, complete_ok]
  simp [popRxq, headRxq, hq, wide, endedState]

/-- Settles O34. -/
theorem linkRxReturnsByte : Obligations.LinkRxReturnsByte := by
  unfold Obligations.LinkRxReturnsByte
  intro s es b q he hrst hpc hq hop
  have hstep : step s = seqRx { s with events := es } := step_unlessReset he hrst rfl
  exact hstep.trans (seqRx_linkRx hpc hq hop)

/-! ### The waits -/

/-- The sequencer waits in `LBD`, `SETTLE` and `RXB` (R148). -/
theorem waiting_iff (s : State) : waiting s = true ↔ s.pc = .lbd ∨ s.pc = .settle ∨ s.pc = .rxb := by
  simp [waiting, or_assoc]

/-- The timeout can expire in `LBD` and `RXB`, when there is one and nothing to receive (R98). -/
theorem timeoutEnabled_iff (s : State) :
    timeoutEnabled s = true ↔ (s.pc = .lbd ∨ s.pc = .rxb) ∧ s.timeout ≠ 0#32 ∧ s.rxq = [] := by
  simp [timeoutEnabled, and_assoc]

/-- The count once the timeout has expired has reached it (R98; log entry 6). -/
theorem expireTimeout_reached (s : State) : s.timeout.toNat ≤ (expireTimeout s).waitCnt.toNat := by
  by_cases h : s.waitCnt.toNat < s.timeout.toNat
  · simp [expireTimeout, h]
  · simpa [expireTimeout, h] using Nat.le_of_not_lt h

/-- Ticks count only while a wait lasts, up to the largest count (R205; log entry 6). -/
theorem passTicks_toNat (n : Nat) (s : State) :
    (passTicks n s).waitCnt.toNat =
      if s.pc = .lbd ∨ s.pc = .settle ∨ s.pc = .rxb then min (s.waitCnt.toNat + n) 4294967295
      else s.waitCnt.toNat := by
  simp only [← waiting_iff, passTicks, apply_ite BitVec.toNat, addTicks_toNat]

/-- Each step of the sequencer where R149 does not enable it (log entry 2). -/
theorem runEvent_disabled {e : Event} {s : State}
    (h : (∃ heard, e = .tx heard) ∧ s.pc ≠ .txb ∨ e = .drain ∧ (s.pc ≠ .lbd ∨ s.rxq = []) ∨
        e = .settled ∧ s.pc ≠ .settle ∨ e = .rx ∧ (s.pc ≠ .rxb ∨ s.rxq = []) ∨
        e = .timeout ∧ ((s.pc ≠ .lbd ∧ s.pc ≠ .rxb) ∨ s.timeout = 0#32 ∨ s.rxq ≠ []) ∨
        e = .abort ∧ (s.abortReq = false ∨ s.pc = .idle ∨ s.pc = .txb)) :
    runEvent e s = unlessReset s (.next s) := by
  rcases h with ⟨⟨heard, rfl⟩, h⟩ | ⟨rfl, h⟩ | ⟨rfl, h⟩ | ⟨rfl, h⟩ | ⟨rfl, h⟩ | ⟨rfl, h⟩
  · rw [runEvent, seqTx, if_neg h]
  · rw [runEvent, seqDrain, if_neg (by tauto)]
  · rw [runEvent, seqSettled, if_neg h]
  · rw [runEvent, seqRx, if_neg (by tauto)]
  · rw [runEvent, seqTimeout, if_neg (by rw [timeoutEnabled_iff]; tauto)]
  · have hnone : ¬(s.abortReq = true ∧ waiting s = true) := by
      rw [waiting_iff]
      rcases h with h | h | h <;> simp [h]
    rw [runEvent, seqAbort, if_neg (by simpa using hnone)]

/-- A timeout that can expire ends the operation with `BusTimeout` (R98). -/
theorem seqTimeout_expires {s : State} (hpc : s.pc = .lbd ∨ s.pc = .rxb) (ht : s.timeout ≠ 0#32) (hq : s.rxq = []) :
    seqTimeout s = endedState 8#8 (expireTimeout s) := by
  rw [seqTimeout, if_pos ((timeoutEnabled_iff s).mpr ⟨hpc, ht, hq⟩), complete_raised (by decide)]
  rfl

/-- A request to abort ends any wait with `Aborted` (R148, R195). -/
theorem seqAbort_aborts {s : State} (hreq : s.abortReq = true) (hpc : s.pc = .lbd ∨ s.pc = .settle ∨ s.pc = .rxb) :
    seqAbort s = endedState 9#8 s := by
  rw [seqAbort, hreq, (waiting_iff s).mpr hpc, if_pos (by rfl), complete_raised (by decide)]
  rfl

/-- Settles O36. -/
theorem waitsAndTicks : Obligations.WaitsAndTicks := by
  unfold Obligations.WaitsAndTicks
  intro s e es he hrst
  set u : State := { s with events := es } with hu
  refine ⟨?_, ?_, fun h => ?_, ?_⟩
  · rintro rfl hq hpc ht
    have hstep : step s = .next (seqTimeout u) := step_unlessReset he hrst rfl
    rw [hstep, seqTimeout_expires (s := u) hpc ht hq]
    exact ⟨_, expireTimeout_reached u, rfl⟩
  · rintro rfl hreq hpc
    have hstep : step s = .next (seqAbort u) := step_unlessReset he hrst rfl
    rw [hstep, seqAbort_aborts (s := u) hreq hpc]
    rfl
  · exact step_unlessReset he hrst (runEvent_disabled (s := u) h)
  · rintro n rfl
    have hstep : step s = .next (passTicks n u) := step_unlessReset he hrst rfl
    exact ⟨_, hstep, passTicks_toNat n u⟩

/-! ### What goes on the line -/

/-- A write of `OP` puts nothing on the line (R140). -/
theorem Accepted.bus {op : Byte} {s t : State} (h : Accepted op s t) : t.bus = s.bus := by
  cases h <;> rfl

/-- Nor does what follows a transaction (R149). -/
theorem Continued.bus {s t : State} (h : Continued s t) : t.bus = s.bus := by
  cases h <;> rfl

/-- Nor what follows a byte (R149 `AFTER_BYTE`). -/
theorem afterByte_bus (s : State) : (afterByte s).bus = s.bus := by
  obtain ⟨-, he⟩ | he | he | ⟨-, he⟩ := afterByte_cases s <;> rw [he]
  · rfl
  · exact (afterTransaction_continued (broadcastDone s)).bus
  · rfl

/-- Nor a host write of another register (R11). -/
theorem storeReg_bus (r : BitVec 7) (v : Word) (s : State) : (storeReg r v s).bus = s.bus := by
  unfold storeReg
  split
  case h_14 => split <;> rfl
  all_goals rfl

/-- Nor a byte received (R96, R141). -/
theorem seqRx_bus {s t : State} (h : seqRx s = .next t) : t.bus = s.bus := by
  obtain rfl | ⟨-, -, rfl⟩ | ⟨-, -, -, rfl⟩ | ⟨-, -, id, len, err, params, chk, -, rfl⟩ := seqRx_cases h
  · rfl
  · rfl
  · rfl
  · exact (afterTransaction_continued (decodeStatus id len err params chk (receiveByte s))).bus

/-- A read packet drives nothing: its reply is owed, not the core's (R39, R53). -/
theorem busRead_sent {id addr count : Byte} {s t : State} (h : busRead id addr count s = .next t) :
    t.bus.sent = s.bus.sent := by
  unfold busRead at h
  split at h
  · exact Host.Outcome.next.inj h ▸ rfl
  split at h
  · exact Host.Outcome.next.inj h ▸ rfl
  · split at h
    · cases h
    · obtain ⟨-, -, he⟩ := withRange_next.mp h
      exact Host.Outcome.next.inj he ▸ rfl
  · exact Host.Outcome.next.inj h ▸ rfl

/-- Nor does a write packet or a trigger (R39, R54, R55). -/
theorem busWrite_sent {id : Byte} {f : Nat → Actuator → Host.Outcome Actuator Fault Refusal} {s t : State}
    (h : busWrite id f s = .next t) : t.bus.sent = s.bus.sent := by
  obtain ⟨as, -, rfl⟩ := busWrite_next.mp h
  rfl

/-- Whatever packet the actuators act on, the core drives nothing (R39). -/
theorem PacketOf.exec_sent {id code : Byte} {params : List Byte} {i : Instr} {s t : State}
    (hi : PacketOf id code params i) (h : exec i s = .next t) : t.bus.sent = s.bus.sent := by
  cases hi with
  | read => exact busRead_sent h
  | write | regWrite | action => exact busWrite_sent h
  | reserved =>
    rw [exec_ipktReserved] at h
    split at h
    · cases h
    · exact Host.Outcome.next.inj h ▸ rfl

/-- The actuators take bytes off the line and drive none for the core (R39, R52). -/
theorem actuatorsAct_sent {s t : State} (h : actuatorsAct s = .next t) : t.bus.sent = s.bus.sent := by
  by_cases hw : s.bus.wire = []
  · rw [actuatorsAct, hw] at h
    exact Host.Outcome.next.inj h ▸ rfl
  cases hd : decode .lineOut s.bus.wire with
  | ok p =>
    obtain ⟨id, code, params, hi, -, -⟩ := decode_lineOut_eq_ok_iff.mp hd
    rw [actuatorsAct_packet hd] at h
    exact hi.exec_sent (s := takeWire p.2 s) h
  | error e =>
    rw [actuatorsAct_error hw hd] at h
    split at h
    · exact Host.Outcome.next.inj h ▸ rfl
    obtain ⟨-, -, he⟩ | ⟨-, he⟩ := unreadable_cases e s <;> rw [he] at h
    · cases h
    · obtain rfl := Host.Outcome.next.inj h
      obtain ⟨-, hp⟩ | ⟨-, hp⟩ := passBy_cases e s <;> rw [hp] <;> rfl

/-- The core has driven the next byte of its frame (R86, R87). -/
def DrivesNext (s t : State) : Prop := s.pc = .txb ∧ t.bus.sent = s.bus.sent ++ [byteAt s.txbuf s.txi]

/-- `TX` drives the next byte of the frame, and only in `TXB` (R86, R87). -/
theorem seqTx_sent (heard : List Byte) (s : State) :
    DrivesNext s (seqTx heard s) ∨ seqTx heard s = s := by
  by_cases hpc : s.pc = .txb
  · obtain ⟨added, o, he, -⟩ := sendByte_frame (currentByte s) heard s
    refine .inl ⟨hpc, ?_⟩
    rw [seqTx, if_pos hpc, he]
    split
    · rfl
    · rw [afterByte_bus]
      rfl
  · exact .inr (if_neg hpc)

/-- `DRAIN` drives nothing (R88). -/
theorem seqDrain_bus (s : State) : (seqDrain s).bus = s.bus := by
  unfold seqDrain
  split
  · exact afterByte_bus _
  · rfl

/-- `SETTLED` drives nothing (R142). -/
theorem seqSettled_bus (s : State) : (seqSettled s).bus = s.bus := by
  unfold seqSettled
  split <;> rfl

/-- `TIMEOUT` drives nothing (R98). -/
theorem seqTimeout_bus (s : State) : (seqTimeout s).bus = s.bus := by
  unfold seqTimeout
  split <;> rfl

/-- `ABORT` drives nothing (R148). -/
theorem seqAbort_bus (s : State) : (seqAbort s).bus = s.bus := by
  unfold seqAbort
  split <;> rfl

/-- A byte owed that arrives is not driven by the core (R52). -/
theorem deliverReply_sent (s : State) : (deliverReply s).bus.sent = s.bus.sent := by
  unfold deliverReply
  split <;> rfl

/-- A byte owed that is lost is not driven by the core (R229). -/
theorem loseReply_sent (s : State) : (loseReply s).bus.sent = s.bus.sent := by
  obtain ⟨-, he⟩ | ⟨-, he⟩ := loseReply_cases s <;> rw [he]

/-- A step of the sequencer that is taken or, under reset, left out drives nothing if the step itself does not. -/
theorem unlessReset_sent {s t : State} {go : Out} (h : unlessReset s go = .next t)
    (hgo : go = .next t → t.bus.sent = s.bus.sent) : t.bus.sent = s.bus.sent := by
  obtain rfl | ⟨-, h⟩ := unlessReset_cases h
  · rfl
  · exact hgo h

/-- Every event leaves the record of the line as it is but the transmit step, which may add the next byte. -/
theorem runEvent_sent {e : Event} {s t : State} (h : runEvent e s = .next t) :
    t.bus.sent = s.bus.sent ∨ (∃ heard, e = .tx heard) ∧ DrivesNext s t := by
  cases e with
  | tx heard =>
    obtain rfl | ⟨-, hx⟩ := unlessReset_cases h
    · exact .inl rfl
    · obtain rfl := Host.Outcome.next.inj hx
      obtain hnext | hsame := seqTx_sent heard s
      · exact .inr ⟨⟨heard, rfl⟩, hnext⟩
      · exact .inl (by rw [hsame])
  | hostWrite r v =>
    left
    obtain rfl | ⟨-, -, hx⟩ | ⟨-, -, rfl⟩ := hostWrite_cases h
    · rfl
    · rw [(exec_decodeOp_accepted hx).bus]
    · rw [storeReg_bus]
  | drain => exact .inl (unlessReset_sent h fun h => by rw [← Host.Outcome.next.inj h, seqDrain_bus])
  | settled => exact .inl (unlessReset_sent h fun h => by rw [← Host.Outcome.next.inj h, seqSettled_bus])
  | rx => exact .inl (unlessReset_sent h fun h => by rw [seqRx_bus h])
  | timeout => exact .inl (unlessReset_sent h fun h => by rw [← Host.Outcome.next.inj h, seqTimeout_bus])
  | abort => exact .inl (unlessReset_sent h fun h => by rw [← Host.Outcome.next.inj h, seqAbort_bus])
  | ticks n => exact .inl (unlessReset_sent h fun h => Host.Outcome.next.inj h ▸ rfl)
  | setRst level => exact .inl (by obtain rfl := Host.Outcome.next.inj h; cases level <;> rfl)
  | actuators => exact .inl (actuatorsAct_sent h)
  | reply => exact .inl (Host.Outcome.next.inj h ▸ deliverReply_sent s)
  | replyLost => exact .inl (unlessReset_sent h fun h => Host.Outcome.next.inj h ▸ loseReply_sent s)
  | hostRead | line | attach | actuatorSets | actuatorFault => exact .inl (Host.Outcome.next.inj h ▸ rfl)

/-- Settles O54. -/
theorem lineCarriesOnlyTheFrame : Obligations.LineCarriesOnlyTheFrame := by
  unfold Obligations.LineCarriesOnlyTheFrame
  intro s t h
  obtain ⟨-, rfl⟩ | ⟨e, es, he, hrun⟩ := step_cases h
  · exact .inl rfl
  · obtain hsame | ⟨⟨heard, rfl⟩, hpc, hnext⟩ := runEvent_sent hrun
    · exact .inl hsame
    · exact .inr ⟨⟨heard, es, he⟩, hpc, hnext⟩

/-! ### A frame on a line that echoes -/

/-- A run is a step and the rest of the run. -/
theorem run_succ {M : Host.Core} {k : Nat} {s t : M.State} (h : M.step s = .next t) : M.run (k + 1) s = M.run k t := by
  rw [Host.Core.run, h]

/-- The events are played one by one: a step, and those after it. -/
theorem playing_cons {e : Event} {es : List Event} {s t : State}
    (h : step { s with events := e :: es } = .next { t with events := es }) :
    playing (e :: es) s = playing es t :=
  run_succ (M := Sys2Proof.core) h

/-- The state once `bs` has gone out, each byte heard and drained again. -/
def echoed (bs : List Byte) (s : State) : State :=
  { s with
    dir := .input
    waitCnt := 0#32
    txi := s.txi + bs.length
    bus := { s.bus with sent := s.bus.sent ++ bs, wire := s.bus.wire ++ bs } }

/-- Bytes sent one after another (R88). -/
theorem echoed_cons (b : Byte) (bs : List Byte) (s : State) : echoed bs (echoed [b] s) = echoed (b :: bs) s := by
  simp [echoed, Nat.add_assoc, Nat.add_comm 1]

/-- The state with `b` just sent and heard: it is queued and waits to be drained (R88). -/
def awaitingDrain (b : Byte) (s : State) : State := { echoed [b] s with txi := s.txi, pc := .lbd, rxq := [b] }

/-- A `LINK_TX` about to send a byte in loop-back mode, the queue empty (R88, R95). -/
structure SendingRaw (s : State) : Prop where
  live : s.rst = false
  phase : s.pc = .txb
  loop : s.cfg.getLsbD 1 = true
  queue : s.rxq = []
  link : s.op = 0x10#8
  sound : s.malformed = false

/-- It still is when a byte has gone out and come back. -/
theorem SendingRaw.echoed {s : State} (h : SendingRaw s) (bs : List Byte) : SendingRaw (echoed bs s) := { h with }

section
variable {s : State} (h : SendingRaw s) (es : List Event)
include h

/-- The step that sends the next byte on a line that echoes: it is queued (R88). -/
theorem playing_tx_echo (b : Byte) (hb : byteAt s.txbuf s.txi = b) :
    playing (.tx [b] :: es) s = playing es (awaitingDrain b s) := by
  have hstep := transmitWithLoopBack { s with events := .tx [b] :: es } [b] es rfl h.live h.phase h.loop
  refine playing_cons (hstep.trans ?_)
  simp [awaitingDrain, echoed, h.queue, hb]

/-- The byte just queued is the one drained; before the last byte the next follows (R88). -/
theorem playing_drain_next (b : Byte) (hb : byteAt s.txbuf s.txi = b) (hmore : s.txi + 1 < s.txn) :
    playing (.drain :: es) (awaitingDrain b s) = playing es (echoed [b] s) := by
  have hstep := (loopBackDrain { awaitingDrain b s with events := .drain :: es } es b [] rfl h.live rfl rfl).1 hmore
  refine playing_cons (hstep.trans ?_)
  simp [awaitingDrain, echoed, hb, h.queue, h.phase]

/-- With the last byte drained `LINK_TX` ends (R88, R95). -/
theorem playing_drain_last (b : Byte) (hb : byteAt s.txbuf s.txi = b) (hlast : s.txi + 1 = s.txn) :
    playing (.drain :: es) (awaitingDrain b s) =
      playing es (endedState 0#8 (echoed [b] s)) := by
  obtain ⟨t, hstep, hsent, -⟩ :=
    (loopBackDrain { awaitingDrain b s with events := .drain :: es } es b [] rfl h.live rfl rfl).2 hlast.ge
  refine playing_cons (hstep.trans ?_)
  rw [hsent h.link]
  simp [awaitingDrain, echoed, endedState, hb, h.queue, h.sound]

end

/-- Sending and draining all the bytes left in the frame ends a `LINK_TX` (R88, R95). -/
theorem playing_echo {bs : List Byte} {s : State} (h : SendingRaw s) (hne : bs ≠ [])
    (hlen : s.txi + bs.length = s.txn) (hbytes : ∀ k (hk : k < bs.length), byteAt s.txbuf (s.txi + k) = bs[k]) :
    playing (bs.flatMap fun b => [.tx [b], .drain]) s = playing [] (endedState 0#8 (echoed bs s)) := by
  induction bs generalizing s with
  | nil => exact absurd rfl hne
  | cons b rest ih =>
    have hb : byteAt s.txbuf s.txi = b := hbytes 0 (by simp)
    rw [List.flatMap_cons, List.cons_append, playing_tx_echo h _ b hb, List.cons_append, List.nil_append]
    rw [List.length_cons] at hlen
    cases rest with
    | nil => exact playing_drain_last h [] b hb hlen
    | cons c rest =>
      rw [playing_drain_next h _ b hb (by rw [List.length_cons] at hlen; omega), ih (h.echoed [b]) (by simp),
        echoed_cons]
      · simp only [echoed, List.length_singleton]; omega
      · intro k hk
        have hnext := hbytes (k + 1) (by simpa using hk)
        simpa [echoed, Nat.add_assoc, Nat.add_comm 1] using hnext

/-- Settles O60. -/
theorem wholeLoopBackTransmit : Obligations.WholeLoopBackTransmit := by
  unfold Obligations.WholeLoopBackTransmit
  intro s hrst hb hq hlb hf hsome hmost data
  have hlen : data.length = s.cmdCount.toNat := operandBytes_length hmost
  set u : State := { acceptedState 0x10#8 s.tgt data s.nexp s with txn := s.cmdCount.toNat } with hu
  have haccept (es : List Event) : playing (.hostWrite 13#7 0x10#32 :: es) s = playing es u := by
    have hstep :=
      stepRunsHostOperation { s with events := .hostWrite 13#7 0x10#32 :: es } 0x10#32 es .linkTx [] rfl hrst rfl
    have hload := linkOperationsAccepted.1 { s with events := es } hb hf hsome hmost
    exact playing_cons (hstep.trans hload)
  have hsending : SendingRaw u := ⟨hrst, rfl, hlb, hq, rfl, rfl⟩
  have hbytes (k : Nat) (hk : k < data.length) : byteAt u.txbuf (u.txi + k) = data[k] := by
    have htx : byteAt u.txbuf (u.txi + k) = byteAt (fill s.txbuf 0 data) (0 + k) := rfl
    rw [htx, byteAt_fill, if_pos (by omega)]
    simp [hk]
  refine ⟨endedState 0#8 { echoed data u with events := [] }, ?_, rfl, hq, rfl, rfl, rfl, rfl,
    ⟨rfl, rfl, rfl, rfl, rfl, rfl⟩, sameOperands_refl s⟩
  rw [haccept, playing_echo hsending (List.ne_nil_of_length_pos (by omega)) ((Nat.zero_add _).trans hlen) hbytes]
  rfl

end Sys2Proof.Machine
end

section
/-! SUPPORT. The codec of 41_codec.md: the checksum of a packet, what a received status packet writes, and how an
operation of one transaction ends with it (R104, R106, R107, R146), and the statements about them. -/

namespace Sys2Proof.Machine

/-! ### The checksum -/

/-- The bytes a checksum covers are those between the header and the checksum of the packet (R61, R101). -/
theorem packet_covered (id code : Byte) (params : List Byte) :
    ((packet id code params).drop 2).take (params.length + 3) = coveredBytes id code params := by
  simp [packet, coveredBytes]

/-- The last byte of a packet is the checksum of the covered bytes (R61, R102). -/
theorem packet_lastByte (id code : Byte) (params : List Byte) :
    (packet id code params).getD (5 + params.length) 0#8 = checksum (coveredBytes id code params) := by
  simp [packet, coveredBytes, Nat.add_comm 5]

/-- Nothing is left of 0xFF once a checksum and the bytes it covers are taken away (R101, R107). -/
theorem checksum_cancels (bs : List Byte) : 0xFF#8 - checksum bs - byteSum bs = 0#8 := by
  rw [checksum, sub_sub_cancel]
  exact sub_self _

/-- Settles O5. -/
theorem checksumRoundTrip : Obligations.ChecksumRoundTrip := by
  unfold Obligations.ChecksumRoundTrip
  intro id instr params _ frame covered
  have hcovered : covered = coveredBytes id instr params := packet_covered id instr params
  have hlast : frame.getD (5 + params.length) 0#8 = checksum (coveredBytes id instr params) :=
    packet_lastByte id instr params
  rw [hcovered, hlast]
  exact ⟨rfl, checksum_cancels _⟩

/-! ### What a status packet writes -/

/-- The check of a status packet, its checksum written out (R101, R106). -/
theorem badReply_eq (id len err : Byte) (params : List Byte) (chk : Byte) :
    badReply id len err params chk =
      (len.toNat != params.length + 2 || chk != 0xFF#8 - (id + len + err + byteSum params)) := by
  simp [badReply, checksum, byteSum, BitVec.add_assoc]

/-- The registers written by position, `MALFORMED` by the check, then the operation's own rule (R104, R106, R149). -/
theorem exec_spkt (h0 h1 id len err : Byte) (params : List Byte) (chk : Byte) (s : State) :
    exec (.spkt h0 h1 id len err params chk) s = .next (afterTransaction (decodedState id err params
      (s.cfg.getLsbD 2 &&
        (len.toNat != params.length + 2 || chk != 0xFF#8 - (id + len + err + byteSum params))) s)) := by
  rw [← badReply_eq]
  rfl

/-- The payload of a reply of one byte (R123). -/
theorem rawRead_one (id err b0 : Byte) (bad : Bool) (s : State) :
    rawRead 1 (decodedState id err [b0] bad s) = b0.toNat := by
  simp [rawRead, decodedState, join, byteAt_fill]

/-- The payload of a reply of two bytes, the low one first (R123). -/
theorem rawRead_two (id err b0 b1 : Byte) (bad : Bool) (s : State) :
    rawRead 2 (decodedState id err [b0, b1] bad s) = b0.toNat + 256 * b1.toNat := by
  simp [rawRead, decodedState, join, byteAt_fill]

/-! ### The end of an operation of one transaction -/

/-- Addressed or broadcast, an operation of one transaction that scales nothing ends with it; `READ`, never broadcast,
is the one `afterTransaction_plain` leaves out (R143 to R145, R160). -/
theorem afterTransaction_single {s : State}
    (h : s.op ∈ [0x20#8, 0x21#8, 0x22#8, 0x31#8, 0x32#8, 0x33#8, 0x34#8, 0x35#8, 0x37#8]) :
    afterTransaction s = complete .ok s := by
  obtain hread | hplain := List.mem_cons.mp h
  · rw [afterTransaction, hread]; rfl
  · exact afterTransaction_plain hplain

/-- The scaling each getter applies to what it read (R169 to R173). -/
theorem afterTransaction_getter (s : State) :
    (s.op = 0x40#8 → afterTransaction s = complete .ok (setResult (decPosition (rawRead 2 s)) s)) ∧
    (s.op = 0x41#8 → afterTransaction s = complete .ok (setResult (decTemperature (rawRead 1 s)) s)) ∧
    (s.op = 0x42#8 → afterTransaction s = complete .ok (setResult (decVoltage (rawRead 1 s)) s)) ∧
    (s.op = 0x43#8 → afterTransaction s = complete .ok (setResult (decCurrent (rawRead 2 s)) s)) ∧
    (s.op = 0x44#8 → afterTransaction s = complete .ok (setResult (decMoving (rawRead 1 s)) s)) := by
  refine ⟨?_, ?_, ?_, ?_, ?_⟩ <;> intro h <;> rw [afterTransaction, h] <;> rfl

/-- A getter's end writes `RESULT` beside what completion writes (R146, R169). -/
theorem complete_setResult (v : Int) (s : State) : complete .ok (setResult v s) =
    { endedState (if s.malformed then 0xB#8 else 0#8) s with result := BitVec.ofInt 32 v } :=
  complete_ok (setResult v s)

/-- Settles O37. -/
theorem plainOperationsComplete : Obligations.PlainOperationsComplete := by
  unfold Obligations.PlainOperationsComplete
  intro s h0 h1 id len err params chk hop bad
  have hend : afterTransaction (decodedState id err params bad s) = complete .ok (decodedState id err params bad s) :=
    afterTransaction_single hop
  rw [exec_spkt, hend, complete_ok]
  rfl

/-- Settles O38. -/
theorem gettersScaleTheReply : Obligations.GettersScaleTheReply := by
  unfold Obligations.GettersScaleTheReply
  intro s h0 h1 id len err b0 b1 chk bad ends raw
  have hexec (params : List Byte) {v w : Int} (hvw : v = w)
      (hend : afterTransaction (decodedState id err params (bad params) s) =
        complete .ok (setResult v (decodedState id err params (bad params) s))) :
      exec (.spkt h0 h1 id len err params chk) s = .next (ends params w) := by
    rw [exec_spkt, hend, complete_setResult, hvw]
    rfl
  have hone : rawRead 1 (decodedState id err [b0] (bad [b0]) s) = b0.toNat := rawRead_one id err b0 _ s
  have htwo : (rawRead 2 (decodedState id err [b0, b1] (bad [b0, b1]) s) : Int) = raw := by
    rw [rawRead_two]
    push_cast
    rfl
  have hmoving : b0.toNat = 0 ↔ b0 = 0#8 := by bv_omega
  obtain ⟨hposition, -, -, hcurrent, -⟩ := afterTransaction_getter (decodedState id err [b0, b1] (bad [b0, b1]) s)
  obtain ⟨-, htemperature, hvoltage, -, hismoving⟩ := afterTransaction_getter (decodedState id err [b0] (bad [b0]) s)
  refine ⟨fun hop => hexec _ ?_ (hposition hop), fun hop => hexec _ ?_ (htemperature hop),
    fun hop => hexec _ ?_ (hvoltage hop), fun hop => hexec _ ?_ (hcurrent hop),
    fun hop => hexec _ ?_ (hismoving hop)⟩
  · rw [decPosition, htwo]
  · rw [decTemperature, hone]
  · rw [decVoltage, hone]
  · rw [decCurrent, htwo]
  · simp only [decMoving, hone, hmoving]

end Sys2Proof.Machine
end

section
/-! SUPPORT. The scaling of 42_regmap_scaling.md: how `round` treats multiples and order (R117), what each encode
function is in integers and where its scale ends (R118 to R120), the ranges of the decode functions (R122 to R128), and
the statements about them. -/

namespace Sys2Proof.Machine

/-! ### Rounding -/

/-- Half up, as D7 fixes it: `floor(a/b + 1/2)` in integers (R117). -/
theorem roundDiv_tieRule (a b : Nat) : roundDiv Config.tieRule a b = (2 * a + b) / (2 * b) := rfl

/-- Rounding keeps order, whichever way it settles a tie. -/
theorem roundDiv_mono (t : Config.TieRule) (b : Nat) {a a' : Nat} (h : a ≤ a') :
    roundDiv t a b ≤ roundDiv t a' b := by
  cases t
  all_goals exact Nat.div_le_div_right (by omega)

/-- A whole quotient needs no rounding: the half added to it is lost, whichever way a tie is settled. -/
theorem roundDiv_mul_self (t : Config.TieRule) (k : Nat) {b : Nat} (hb : 0 < b) : roundDiv t (k * b) b = k := by
  have hdouble : 2 * (k * b) = k * (2 * b) := Nat.mul_left_comm 2 k b
  have hk : (k + 1) * (2 * b) = k * (2 * b) + 2 * b := Nat.succ_mul k (2 * b)
  cases t
  all_goals exact Nat.div_eq_of_lt_le (by omega) (by omega)

/-- What lies below a multiple of the divisor rounds to no more than the factor. -/
theorem roundDiv_le (t : Config.TieRule) {a b k : Nat} (hb : 0 < b) (h : a ≤ k * b) : roundDiv t a b ≤ k :=
  (roundDiv_mono t b h).trans_eq (roundDiv_mul_self t k hb)

/-! ### The encode functions -/

/-- The integer form of R118. -/
theorem encAngle_eq (v : Int) : encAngle v = (8190 * v.toNat + 23592960) / 47185920 := by
  rw [encAngle, roundDiv_tieRule, ← Nat.mul_assoc]

/-- The integer form of R119's magnitude. -/
theorem speedMagnitude_eq (v : Int) : speedMagnitude v = (2046 * v.natAbs + 65536) / 131072 := by
  rw [speedMagnitude, roundDiv_tieRule, ← Nat.mul_assoc]

/-- The integer form of R120. -/
theorem encTorque_eq (v : Int) : encTorque v = (2046 * v.toNat + 65536) / 131072 := by
  rw [encTorque, roundDiv_tieRule, ← Nat.mul_assoc]

/-- A greater angle is encoded no smaller. -/
theorem encAngle_mono {v w : Int} (h : v ≤ w) : encAngle v ≤ encAngle w :=
  roundDiv_mono _ _ (Nat.mul_le_mul_left 4095 (Int.toNat_le_toNat h))

/-- 0 degrees are the start of the scale (R118). -/
theorem encAngle_zero : encAngle 0 = 0 := roundDiv_mul_self _ 0 (show 0 < 360 * 65536 by decide)

/-- 360 degrees are the end of the scale (R118). -/
theorem encAngle_fullTurn : encAngle 23592960 = 4095 := roundDiv_mul_self _ 4095 (by decide)

/-- The magnitude has ten bits as long as `|V|` is at most one (R119). -/
theorem speedMagnitude_le {v : Int} (h : v.natAbs ≤ 65536) : speedMagnitude v ≤ 1023 :=
  roundDiv_le _ (by decide) (Nat.mul_le_mul_left 1023 h)

/-- One is the end of the torque scale (R120). -/
theorem encTorque_le {v : Int} (h : v ≤ 65536) : encTorque v ≤ 1023 :=
  roundDiv_le _ (by decide) (Nat.mul_le_mul_left 1023 (Int.toNat_le_toNat h))

/-- A magnitude of ten bits leaves bit 10 to the sign, which then counts 1024 (R119). -/
theorem encSpeed_eq_add {v : Int} (h : v.natAbs ≤ 65536) :
    encSpeed v = speedMagnitude v + if v < 0 then 1024 else 0 := by
  have hlt : speedMagnitude v < 2 ^ 10 := Nat.lt_succ_of_le (speedMagnitude_le h)
  rw [encSpeed]
  split
  · rw [Nat.or_comm, ← Nat.shiftLeft_add_eq_or_of_lt hlt, Nat.add_comm]
    rfl
  · exact Nat.or_zero _

/-- Bit 10 of an encoded speed is its sign, and the ten bits below are its magnitude (R119). -/
theorem encSpeed_fields {v : Int} (h : v.natAbs ≤ 65536) :
    encSpeed v ≤ 0x7FF ∧ (encSpeed v).testBit 10 = decide (v < 0) ∧ encSpeed v % 1024 = speedMagnitude v := by
  have hle := speedMagnitude_le h
  rw [encSpeed_eq_add h, Nat.testBit_eq_decide_div_mod_eq, decide_eq_decide]
  split <;> omega

/-- The two scales differ (R129): a raw step is less than 5762 units of the angle written and 19200 of the one read back,
so that no rounding makes up for it from the first step on. -/
theorem lt_decPosition_encAngle {v : Int} (h : 1 ≤ encAngle v) : v < 256 * decPosition (encAngle v) := by
  have hv := encAngle_eq v
  rw [decPosition]
  omega

/-! ### The bytes of a value -/

/-- Two bytes, the low one first (R123). -/
theorem join_two (b0 b1 : Byte) : join b0 b1 2 = b0.toNat + 256 * b1.toNat := rfl

/-- One byte (R123). -/
theorem join_one (b0 b1 : Byte) : join b0 b1 1 = b0.toNat := rfl

/-- A value of two bytes has 16 bits (R123). -/
theorem join_two_lt (b0 b1 : Byte) : join b0 b1 2 < 65536 := by
  rw [join_two]
  omega

/-- A value of one byte has 8 bits (R123). -/
theorem join_one_lt (b0 b1 : Byte) : join b0 b1 1 < 256 := b0.isLt

/-- Splitting a value of 16 bits loses nothing (R122, R123). -/
theorem join_split16 {raw : Nat} (h : raw < 65536) : join (split16 raw).1 (split16 raw).2 2 = raw := by
  have hhigh : raw / 256 < 2 ^ 8 := by omega
  calc join (split16 raw).1 (split16 raw).2 2
    _ = raw % 2 ^ 8 + 256 * (raw / 256 % 2 ^ 8) := by rw [join_two, split16, BitVec.toNat_ofNat, BitVec.toNat_ofNat]
    _ = raw % 2 ^ 8 + 256 * (raw / 256) := by rw [Nat.mod_eq_of_lt hhigh]
    _ = raw := Nat.mod_add_div raw 256

/-! ### The decode functions -/

/-- The range of a position decoded from 16 bits (R78, R124). -/
theorem decPosition_range {raw : Nat} (h : raw < 65536) : 0 ≤ decPosition raw ∧ decPosition raw ≤ 4915125 := by
  rw [decPosition]
  omega

/-- The range of a current decoded from 16 bits: below zero as well, the subtraction being signed (R78, R127). -/
theorem decCurrent_range {raw : Nat} (h : raw < 65536) : -103635 ≤ decCurrent raw ∧ decCurrent raw ≤ 2845440 := by
  rw [decCurrent]
  omega

/-- The range of a temperature decoded from one byte (R78, R125). -/
theorem decTemperature_range {raw : Nat} (h : raw < 256) : 0 ≤ decTemperature raw ∧ decTemperature raw ≤ 255 := by
  rw [decTemperature]
  omega

/-- The range of a voltage decoded from one byte (R78, R126). -/
theorem decVoltage_range {raw : Nat} (h : raw < 256) : 0 ≤ decVoltage raw ∧ decVoltage raw ≤ 255 := by
  rw [decVoltage]
  omega

/-- A truth value (R78, R128). -/
theorem decMoving_eq_or (raw : Nat) : decMoving raw = 0 ∨ decMoving raw = 1 := by
  rw [decMoving]
  split
  · exact .inl rfl
  · exact .inr rfl

/-! ### The statements -/

/-- Settles O42: every end and range is one of `roundDiv` on a whole quotient and below it. -/
theorem encodersOnTheirDomains : Obligations.EncodersOnTheirDomains := by
  unfold Obligations.EncodersOnTheirDomains
  refine ⟨fun v _ hv => ⟨encAngle_eq v, (encAngle_mono hv).trans_eq encAngle_fullTurn⟩, fun v w _ => encAngle_mono,
    encAngle_zero, encAngle_fullTurn, fun v hlo hhi => ?_,
    fun v _ hv => ⟨encTorque_eq v, encTorque_le hv⟩, fun v _ _ => lt_decPosition_encAngle, ?_⟩
  case refine_1 =>
    rw [← speedMagnitude_eq]
    exact encSpeed_fields (by omega)
  case refine_2 => rw [encAngle_eq]; rfl

/-- Settles O43: the ranges over the raw values that one and two bytes join to. -/
theorem splitJoinAndResultRanges : Obligations.SplitJoinAndResultRanges := by
  unfold Obligations.SplitJoinAndResultRanges
  refine ⟨fun raw => join_split16, fun b0 b1 => ?_⟩
  obtain ⟨hposition, hposition'⟩ := decPosition_range (join_two_lt b0 b1)
  obtain ⟨hcurrent, hcurrent'⟩ := decCurrent_range (join_two_lt b0 b1)
  obtain ⟨htemperature, htemperature'⟩ := decTemperature_range (join_one_lt b0 b1)
  obtain ⟨hvoltage, hvoltage'⟩ := decVoltage_range (join_one_lt b0 b1)
  have hfits : (BitVec.ofInt 32 (decCurrent (join b0 b1 2))).toInt = decCurrent (join b0 b1 2) :=
    BitVec.toInt_ofInt_eq_self (by decide) (by omega) (by omega)
  exact ⟨hposition, hposition', hcurrent, hcurrent', hfits, htemperature, htemperature', hvoltage, hvoltage',
    decMoving_eq_or _⟩

end Sys2Proof.Machine
end

section
/-! SUPPORT. The register operations accepted (R140, R143 to R145), the last byte of a frame and the receive phase
(R141, R147, R149), and the statements about them. -/

namespace Sys2Proof.Machine

/-! ### The checks of the register operations -/

/-- A target that passes check 4 of R140 is not the broadcast ID. -/
theorem broadcastCheck_eq_false (target : Byte) : (broadcastCheck target).1 = false ↔ target ≠ 0xFE#8 := by
  simp [broadcastCheck, Config.broadcastId]

/-- `CMD_COUNT` asks for a byte at least (R140 check 7). -/
theorem someBytesCheck_eq_false (s : State) : (someBytesCheck s).1 = false ↔ 1 ≤ s.cmdCount.toNat := by
  rw [someBytesCheck, beq_eq_false_iff_ne]
  bv_omega

/-- An operation that defines `STAGED` accepts it set or clear (R22, R144). -/
theorem badFlags_stagedFlag {s : State} (h : s.cmdFlags = 0#8 ∨ s.cmdFlags = 1#8) :
    badFlags stagedFlag s = false := by
  rcases h with h | h <;> rw [badFlags, h] <;> rfl

/-! ### Acceptance of the register operations -/

/-- The first transaction of an operation just accepted (R140, R141). -/
theorem transact_beginOp (op target instr : Byte) (params : List Byte) (nexp : Nat) (s : State) :
    transact target instr params nexp (beginOp op s) = acceptedState op target (packet target instr params) nexp s :=
  transact_eq_nextFrameState target instr params nexp (beginOp op s)

/-- With no flag, an addressed target and at most 14 bytes, `READ` loads its packet (R140, R143). -/
theorem execRead_runs {s : State} (hb : s.busy = false) (hf : s.cmdFlags = 0#8) (hid : s.cmdId.toNat ≤ 253)
    (hmost : s.cmdCount.toNat ≤ 14) :
    execRead s = .next
      (acceptedState 0x20#8 s.cmdId (packet s.cmdId Config.readCode [s.cmdAddr, s.cmdCount]) s.cmdCount.toNat s) := by
  have hnone : s.cmdId ≠ 0xFF#8 := by bv_omega
  have hall : s.cmdId ≠ 0xFE#8 := by bv_omega
  rw [← transact_beginOp]
  refine accept_runs _ _ _ s hb (firstFail_eq_none.mpr ?_)
  simp only [List.forall_mem_cons, List.not_mem_nil, false_implies, implies_true, and_true]
  exact ⟨badFlags_of_zero noFlags hf, (idCheck_eq_false _).mpr hnone, (broadcastCheck_eq_false _).mpr hall,
    (countCheck_eq_false _ s).mpr hmost⟩

/-- With no flag but `STAGED`, a target that is an ID and 1 to 13 bytes, `WRITE` loads its packet (R140, R144). -/
theorem execWrite_runs {s : State} {frame : List Byte} (hb : s.busy = false)
    (hf : s.cmdFlags = 0#8 ∨ s.cmdFlags = 1#8) (hid : s.cmdId.toNat ≤ 254) (hsome : 1 ≤ s.cmdCount.toNat)
    (hmost : s.cmdCount.toNat ≤ 13)
    (hframe : packet s.cmdId (writeInstr (staged s)) (s.cmdAddr :: operandBytes s) = frame) :
    execWrite s = .next (acceptedState 0x21#8 s.cmdId frame 0 s) := by
  have hnone : s.cmdId ≠ 0xFF#8 := by bv_omega
  rw [← hframe, ← transact_beginOp]
  refine accept_runs _ _ _ s hb (firstFail_eq_none.mpr ?_)
  simp only [List.forall_mem_cons, List.not_mem_nil, false_implies, implies_true, and_true]
  exact ⟨badFlags_stagedFlag hf, (idCheck_eq_false _).mpr hnone, (countCheck_eq_false _ s).mpr hmost,
    (someBytesCheck_eq_false s).mpr hsome⟩

/-- With no flag `TRIGGER` loads its packet (R140, R145). -/
theorem execTrigger_runs {s : State} (hb : s.busy = false) (hf : s.cmdFlags = 0#8) :
    execTrigger s = .next
      (acceptedState 0x22#8 Config.broadcastId (packet Config.broadcastId Config.actionCode []) 0 s) := by
  rw [← transact_beginOp]
  refine accept_runs _ _ _ s hb (firstFail_eq_none.mpr ?_)
  simp only [List.forall_mem_cons, List.not_mem_nil, false_implies, implies_true, and_true]
  exact badFlags_of_zero noFlags hf

/-! ### Their packets, byte by byte -/

/-- A packet of two parameters (R61, R101). -/
theorem packet_pair (target instr p q : Byte) :
    packet target instr [p, q] =
      [0xFF#8, 0xFF#8, target, 0x04#8, instr, p, q, 0xFF#8 - (target + 0x04#8 + instr + p + q)] := by
  simp [packet, coveredBytes, checksum, byteSum, lenByte, Config.header, BitVec.add_assoc]

/-- The packet of a read (R69). -/
theorem packet_eq_readFrame (target addr count : Byte) :
    packet target Config.readCode [addr, count] = readFrame target addr count :=
  packet_pair target Config.readCode addr count

/-- The packet of a write with as many data bytes as `count` says (R61, R70, R101). -/
theorem packet_write {data : List Byte} {count : Byte} (target instr addr : Byte) (h : data.length = count.toNat) :
    packet target instr (addr :: data) =
      [0xFF#8, 0xFF#8, target, count + 3#8, instr, addr] ++ data ++
        [0xFF#8 - (target + (count + 3#8) + instr + addr + byteSum data)] := by
  have hlen : lenByte (addr :: data) = count + 3#8 := by
    rw [lenByte, List.length_cons, h]
    bv_omega
  simp [packet, coveredBytes, checksum, byteSum, hlen, Config.header, BitVec.add_assoc]

/-- Where no flag but `STAGED` may be set, it decides on the code of a write (R22, R144). -/
theorem writeInstr_staged {s : State} (h : s.cmdFlags = 0#8 ∨ s.cmdFlags = 1#8) :
    writeInstr (staged s) = if s.cmdFlags = 1#8 then 0x04#8 else 0x03#8 := by
  rcases h with h | h <;> rw [staged, h] <;> rfl

/-- Settles O14. -/
theorem readAndTriggerAccepted : Obligations.ReadAndTriggerAccepted := by
  unfold Obligations.ReadAndTriggerAccepted
  refine ⟨fun s hb hf hid hmost => ?_, fun s hb hf => execTrigger_runs hb hf⟩
  rw [← packet_eq_readFrame]
  exact execRead_runs hb hf hid hmost

/-- Settles O15. -/
theorem writeAccepted : Obligations.WriteAccepted := by
  unfold Obligations.WriteAccepted
  intro s hb hf hid hsome hmost data len instr
  have hlen : data.length = s.cmdCount.toNat := operandBytes_length (hmost.trans (by decide))
  have hinstr : writeInstr (staged s) = instr := writeInstr_staged hf
  refine execWrite_runs hb hf hid hsome hmost ?_
  rw [hinstr]
  exact packet_write s.cmdId instr s.cmdAddr hlen

/-! ### What follows a frame, and the receive phase -/

/-- Settles O30. -/
theorem lastByteOfFrame : Obligations.LastByteOfFrame := by
  unfold Obligations.LastByteOfFrame
  intro s heard es he hrst hpc hlb hlast u
  have hsent : seqTx heard { s with events := es } = afterByte u :=
    (seqTx_noLoopBack (s := { s with events := es }) heard hpc hlb).trans (by rw [hlast])
  have hstep : step s = .next (afterByte u) := hsent ▸ step_unlessReset he hrst rfl
  exact ⟨afterByte u, hstep, afterByte_frameSent le_rfl⟩

/-- A byte of a status packet that is not its last is stored and counted (R141, R149). -/
theorem seqRx_unfinished {s : State} (hpc : s.pc = .rxb) (hq : s.rxq ≠ []) (hop : s.op ≠ 0x11#8)
    (hmore : s.rxi + 1 ≠ s.rxn) : seqRx s = .next (receiveByte s) := by
  rw [seqRx, if_pos ⟨hpc, hq⟩, if_neg (mt (decodeOp_eq_linkRx s.op).mp hop)]
  exact if_neg hmore

/-- Settles O35. -/
theorem receivePhase : Obligations.ReceivePhase := by
  unfold Obligations.ReceivePhase
  refine ⟨fun s es he hrst hpc => ?_, fun s es b q he hrst hpc hq hop hmore => ?_⟩
  · have hsettled : seqSettled { s with events := es } = enterReceive { s with events := es } := if_pos hpc
    have hstep : step s = .next (seqSettled { s with events := es }) := step_unlessReset he hrst rfl
    rw [hstep, hsettled]
    rfl
  · set u : State := { s with events := es } with hu
    calc step s = seqRx u := step_unlessReset he hrst rfl
      _ = .next (receiveByte u) := seqRx_unfinished (s := u) hpc (by simp [hu, hq]) hop hmore
      _ = _ := congrArg _ (receiveByte_cons (s := u) hq)

end Sys2Proof.Machine
end

section
/-! SUPPORT. How an operation ends: every step of a running operation leaves it running or completes it with a code of
the run time (R146, R191, R196), and the statement about it. -/

namespace Sys2Proof.Machine

/-! ### The codes an operation that was accepted can end with -/

/-- The codes that end a running operation (R191, R192): success, the end of a wait, the limit on polls. The codes of
the acceptance checks are not among them. -/
def runTimeCodes : List Completion := [.ok, .busTimeout, .aborted, .pollExpired]

/-- A running operation goes on, or has ended by a completion with a code of the run time (R146, R196). -/
def RunsOrCompleted (t : State) : Prop :=
  t.busy = true ∨ ∃ (c : Completion) (u : State), c ∈ runTimeCodes ∧ t = complete c u

/-- An operation that succeeded has ended by a completion. -/
theorem runsOrCompleted_ok (u : State) : RunsOrCompleted (complete .ok u) :=
  .inr ⟨.ok, u, by decide, rfl⟩

/-- What completion writes of a code of the run time: 0 or 8 to 0xB (R146, R191). -/
theorem finalCode_runTime {c : Completion} (h : c ∈ runTimeCodes) (malformed : Bool) :
    (finalCode c malformed).code.toNat = 0 ∨
      8 ≤ (finalCode c malformed).code.toNat ∧ (finalCode c malformed).code.toNat ≤ 0xB := by
  revert c malformed
  decide

/-! ### What follows a transaction and a byte -/

/-- The moving flag has its register in both families, so a poll ends nothing (R115, R161). -/
theorem getAttr_moving_busy (target : Byte) (s : State) : (getAttr target .moving s).busy = s.busy :=
  transact_busy target Config.readCode [0x2E#8, 1#8] 1 s

/-- `SET_GOAL` ends at rest or at the limit on polls, and polls otherwise (R161). -/
theorem continueSetGoal_runs {s : State} (hb : s.busy = true) : RunsOrCompleted (continueSetGoal s) := by
  unfold continueSetGoal
  split
  case isFalse => exact runsOrCompleted_ok s
  split
  · exact .inl ((getAttr_moving_busy _ _).trans hb)
  · obtain ⟨pollcnt, free, he⟩ := countPoll_eq s
    rw [he, afterPoll]
    split
    · exact runsOrCompleted_ok _
    · split
      · exact .inr ⟨.pollExpired, _, by decide, rfl⟩
      · exact .inl ((getAttr_moving_busy _ _).trans hb)

/-- `SET_MODE` goes on to its third write and then ends (R167). -/
theorem continueSetMode_runs {s : State} (hb : s.busy = true) : RunsOrCompleted (continueSetMode s) := by
  obtain ⟨second, third, -⟩ := continueSetMode_cases s
  by_cases h0 : s.sub = 0
  · rw [second h0]
    exact .inl (by simp only [nextFrameState, hb])
  by_cases h1 : s.sub = 1
  · rw [third h1]
    exact .inl (by simp only [nextFrameState, hb])
  · rw [continueSetMode, if_neg h0, if_neg h1]
    exact runsOrCompleted_ok s

/-- The operation's own rule completes it or goes on (R149). -/
theorem afterTransaction_runs {s : State} (hb : s.busy = true) : RunsOrCompleted (afterTransaction s) := by
  unfold afterTransaction
  cases decodeOp s.op
  case setGoal => exact continueSetGoal_runs hb
  case setMode => exact continueSetMode_runs hb
  all_goals exact runsOrCompleted_ok _

/-- So does what follows a byte (R149 `AFTER_BYTE`). -/
theorem afterByte_runs {s : State} (hb : s.busy = true) : RunsOrCompleted (afterByte s) := by
  obtain ⟨-, he⟩ | he | he | ⟨-, he⟩ := afterByte_cases s <;> rw [he]
  · exact .inl hb
  · exact runsOrCompleted_ok s
  · exact afterTransaction_runs (s := broadcastDone s) hb
  · exact .inl hb

/-! ### The sequencer -/

/-- `TX` (R87, R88). -/
theorem seqTx_runs (heard : List Byte) {s : State} (hb : s.busy = true) : RunsOrCompleted (seqTx heard s) := by
  unfold seqTx
  split
  · obtain ⟨added, o, he, -⟩ := sendByte_frame (currentByte s) heard s
    rw [he]
    split
    · exact .inl hb
    · exact afterByte_runs hb
  · exact .inl hb

/-- `DRAIN` (R88). -/
theorem seqDrain_runs {s : State} (hb : s.busy = true) : RunsOrCompleted (seqDrain s) := by
  unfold seqDrain
  split
  · exact afterByte_runs hb
  · exact .inl hb

/-- `SETTLED` (R142). -/
theorem seqSettled_runs {s : State} (hb : s.busy = true) : RunsOrCompleted (seqSettled s) := by
  unfold seqSettled
  split <;> exact .inl hb

/-- `RX` (R96, R141). -/
theorem seqRx_runs {s t : State} (hb : s.busy = true) (h : seqRx s = .next t) : RunsOrCompleted t := by
  obtain rfl | ⟨-, -, rfl⟩ | ⟨-, -, -, rfl⟩ | ⟨-, -, id, len, err, params, chk, -, rfl⟩ := seqRx_cases h
  · exact .inl hb
  · exact runsOrCompleted_ok _
  · exact .inl hb
  · exact afterTransaction_runs hb

/-- `TIMEOUT` ends the operation with `BusTimeout` (R98). -/
theorem seqTimeout_runs {s : State} (hb : s.busy = true) : RunsOrCompleted (seqTimeout s) := by
  unfold seqTimeout
  split
  · exact .inr ⟨.busTimeout, _, by decide, rfl⟩
  · exact .inl hb

/-- `ABORT` ends it with `Aborted` (R148). -/
theorem seqAbort_runs {s : State} (hb : s.busy = true) : RunsOrCompleted (seqAbort s) := by
  unfold seqAbort
  split
  · exact .inr ⟨.aborted, _, by decide, rfl⟩
  · exact .inl hb

/-! ### The host and the environment -/

/-- No host write ends a running operation: a write of `OP` is ignored, and what else can be stored then is a request to
abort it at most (R11, R18, R25). -/
theorem hostWrite_busy {r : BitVec 7} {v : Word} {s t : State} (hb : s.busy = true)
    (h : hostWrite r v s = .next t) : t.busy = true := by
  obtain rfl | ⟨-, -, hx⟩ | ⟨-, hlock, rfl⟩ := hostWrite_cases h
  · exact hb
  · obtain ⟨checks, run, ha⟩ := exec_decodeOp (v.setWidth 8)
    rw [ha, accept_busy _ _ _ _ hb] at hx
    exact Host.Outcome.next.inj hx ▸ hb
  · obtain ⟨a, o, l, he⟩ := storeReg_unlocked v s (hlock hb)
    rw [he]
    exact hb

/-- The environment leaves the core alone (R39). -/
theorem EnvironmentStep.busy {s t : State} (h : EnvironmentStep s t) : t.busy = s.busy := by
  obtain ⟨bus, free, rfl, -⟩ := h
  rfl

/-- A byte owed that arrives ends nothing (R52). -/
theorem deliverReply_busy (s : State) : (deliverReply s).busy = s.busy := by
  unfold deliverReply
  split <;> rfl

/-! ### Every event -/

/-- A step of the sequencer that is left out under reset ends nothing. -/
theorem unlessReset_runs {s t : State} {go : Out} (hb : s.busy = true) (h : unlessReset s go = .next t)
    (hgo : go = .next t → RunsOrCompleted t) : RunsOrCompleted t := by
  obtain rfl | ⟨-, hx⟩ := unlessReset_cases h
  · exact .inl hb
  · exact hgo hx

/-- Every event but reset leaves a running operation running, or completes it with a code of the run time. -/
theorem runEvent_runs {e : Event} {s t : State} (hb : s.busy = true) (h : runEvent e s = .next t)
    (hrst : e ≠ .setRst true) : RunsOrCompleted t := by
  cases e with
  | hostWrite r v => exact .inl (hostWrite_busy hb h)
  | tx heard => exact unlessReset_runs hb h fun hx => Host.Outcome.next.inj hx ▸ seqTx_runs heard hb
  | drain => exact unlessReset_runs hb h fun hx => Host.Outcome.next.inj hx ▸ seqDrain_runs hb
  | settled => exact unlessReset_runs hb h fun hx => Host.Outcome.next.inj hx ▸ seqSettled_runs hb
  | rx => exact unlessReset_runs hb h (seqRx_runs hb)
  | timeout => exact unlessReset_runs hb h fun hx => Host.Outcome.next.inj hx ▸ seqTimeout_runs hb
  | abort => exact unlessReset_runs hb h fun hx => Host.Outcome.next.inj hx ▸ seqAbort_runs hb
  | ticks n => exact unlessReset_runs hb h fun hx => Host.Outcome.next.inj hx ▸ .inl hb
  | setRst level =>
    cases level with
    | true => exact absurd rfl hrst
    | false => exact Host.Outcome.next.inj h ▸ .inl hb
  | actuators => exact .inl ((actuatorsAct_environment h).busy.trans hb)
  | reply => exact .inl (Host.Outcome.next.inj h ▸ (deliverReply_busy s).trans hb)
  | replyLost =>
    exact unlessReset_runs hb h fun hx =>
      Host.Outcome.next.inj hx ▸ .inl ((loseReply_environment s).busy.trans hb)
  | hostRead | line | attach | actuatorSets | actuatorFault => exact .inl (Host.Outcome.next.inj h ▸ hb)

/-- Settles O56: the line listens by the invariant, the rest is what completion writes. -/
theorem operationsEndThroughCompletion : Obligations.OperationsEndThroughCompletion := by
  unfold Obligations.OperationsEndThroughCompletion
  intro s t hinv h hrst hb hended
  have hdir : t.dir = .input := (stepKeepsInvariant s t hinv h).lineIn
  obtain ⟨-, rfl⟩ | ⟨e, es, he, hrun⟩ := step_cases h
  · simp [hb] at hended
  obtain hbusy | ⟨c, u, hc, rfl⟩ :=
    runEvent_runs (s := { s with events := es }) hb hrun fun hx => hrst es (hx ▸ he)
  · simp [hbusy] at hended
  · exact ⟨rfl, rfl, hdir, rfl, finalCode_runTime hc u.malformed⟩

end Sys2Proof.Machine
end

section
/-! SUPPORT. Whole operations on a line that does not echo (R141): a frame sent to its end, a reply received to its last
byte, and the statements about a whole `READ` and a whole broadcast `WRITE`. -/

namespace Sys2Proof.Machine

/-! ### The write of `OP` -/

/-- A run that begins with the host's write of `OP` goes on from the state the accepted operation leaves (R74, R140). -/
theorem playing_hostOp {v : Word} {i : Instr} {s u : State} (es : List Event) (hrst : s.rst = false)
    (hop : decodeOp (v.setWidth 8) = i) (hrun : exec i { s with events := es } = .next { u with events := es }) :
    playing (.hostWrite 13#7 v :: es) s = playing es u := by
  have hstep := stepRunsHostOperation { s with events := .hostWrite 13#7 v :: es } v es i [] rfl hrst (by
    rw [decode, hop])
  exact playing_cons (hstep.trans hrun)

/-- A run of one step is that step. -/
theorem run_one {M : Host.Core} (s : M.State) : M.run 1 s = M.step s := by
  rw [Host.Core.run]
  cases M.step s <;> rfl

/-- A single event is played in a single step. -/
theorem playing_singleton (e : Event) (s : State) : playing [e] s = step { s with events := [e] } :=
  run_one (M := Sys2Proof.core) _

/-! ### A frame on a line that does not echo -/

/-- The state once `bs` has gone out, the receiver hearing nothing of it (R87). -/
def driven (bs : List Byte) (s : State) : State :=
  { s with
    dir := .input
    txi := s.txi + bs.length
    bus := { s.bus with sent := s.bus.sent ++ bs, wire := s.bus.wire ++ bs } }

/-- Bytes sent one after another (R87). -/
theorem driven_cons (b : Byte) (bs : List Byte) (s : State) : driven bs (driven [b] s) = driven (b :: bs) s := by
  simp [driven, Nat.add_assoc, Nat.add_comm 1]

/-- A frame under way with `CFG.LB = 0`, of which `bs` are the bytes still to send (R87, R141). -/
structure Sending (bs : List Byte) (s : State) : Prop where
  live : s.rst = false
  phase : s.pc = .txb
  silent : s.cfg.getLsbD 1 = false
  length : s.txi + bs.length = s.txn
  bytes : ∀ k (hk : k < bs.length), byteAt s.txbuf (s.txi + k) = bs[k]

namespace Sending

variable {b : Byte} {bs : List Byte} {s : State}

/-- The next byte of the frame is the first of those left. -/
theorem head (h : Sending (b :: bs) s) : byteAt s.txbuf s.txi = b := h.bytes 0 (by simp)

/-- With a byte sent, the others are left. -/
theorem tail (h : Sending (b :: bs) s) : Sending bs (driven [b] s) where
  live := h.live
  phase := h.phase
  silent := h.silent
  length := by
    have hlen := h.length
    simp only [driven, List.length_cons, List.length_nil] at hlen ⊢
    omega
  bytes k hk := by
    have hnext := h.bytes (k + 1) (by simpa using hk)
    simpa [driven, Nat.add_assoc, Nat.add_comm 1] using hnext

/-- A byte that is not the last is sent (R87). -/
theorem playing_next {c : Byte} (h : Sending (b :: c :: bs) s) (es : List Event) :
    playing (.tx [] :: es) s = playing es (driven [b] s) := by
  have hmore : s.txi + 1 < s.txn := by
    have hlen := h.length
    simp only [List.length_cons] at hlen
    omega
  have hstep := transmitWithoutLoopBack { s with events := .tx [] :: es } [] es rfl h.live h.phase h.silent hmore
  refine playing_cons (hstep.trans ?_)
  simp [driven, h.head]

/-- The last byte is sent, and what follows the frame (R87, R149 `AFTER_BYTE`). -/
theorem playing_last {t : State} {es : List Event} (h : Sending [b] s)
    (ht : afterByte { driven [b] s with events := es } = { t with events := es }) :
    playing (.tx [] :: es) s = playing es t := by
  have hstep : step { s with events := .tx [] :: es } = .next (seqTx [] { s with events := es }) :=
    step_unlessReset rfl h.live rfl
  refine playing_cons (hstep.trans ?_)
  rw [seqTx_noLoopBack (s := { s with events := es }) [] h.phase h.silent, ← ht]
  simp [driven, h.head]

end Sending

/-- All the bytes left are sent, and what follows the frame (R87, R149 `AFTER_BYTE`). -/
theorem playing_sending {bs : List Byte} {s t : State} {es : List Event} (h : Sending bs s) (hne : bs ≠ [])
    (ht : afterByte { driven bs s with events := es } = { t with events := es }) :
    playing (sendEvents bs.length ++ es) s = playing es t := by
  induction bs generalizing s with
  | nil => exact absurd rfl hne
  | cons b rest ih =>
    rw [List.length_cons, sendEvents, List.replicate_succ, List.cons_append]
    cases rest with
    | nil => exact h.playing_last ht
    | cons c rest =>
      rw [h.playing_next]
      exact ih h.tail (by simp) (by rw [driven_cons]; exact ht)

/-- The frame of an operation just accepted is all left to send (R141). -/
theorem sending_acceptedState (op target : Byte) {frame : List Byte} (nexp : Nat) {s : State} (hrst : s.rst = false)
    (hlb : s.cfg.getLsbD 1 = false) (hfits : frame.length ≤ 20) :
    Sending frame (acceptedState op target frame nexp s) where
  live := hrst
  phase := rfl
  silent := hlb
  length := Nat.zero_add _
  bytes k hk := by
    change byteAt (fill s.txbuf 0 frame) (0 + k) = frame[k]
    rw [byteAt_fill, if_pos (by omega)]
    simp [hk]

/-! ### A reply received -/

/-- The state once the bytes `bs` of a reply have come in and been taken (R141). -/
def received (bs : List Byte) (s : State) : State :=
  { s with
    rxbuf := fill s.rxbuf s.rxi bs
    rxi := s.rxi + bs.length
    waitCnt := 0#32 }

/-- Bytes received one after another (R141). -/
theorem received_cons (b : Byte) (bs : List Byte) (s : State) :
    received bs (received [b] s) = received (b :: bs) s := by
  simp [received, fill, Nat.add_assoc, Nat.add_comm 1]

/-- The state with `b` in the queue, about to be taken (R91). -/
def queued (b : Byte) (s : State) : State := { s with rxq := [b] }

/-- A reply of which `n` bytes are still to come, the queue empty (R141). -/
structure Receiving (n : Nat) (s : State) : Prop where
  live : s.rst = false
  phase : s.pc = .rxb
  lineIn : s.dir = .input
  queue : s.rxq = []
  noLink : s.op ≠ 0x11#8
  length : s.rxi + n = s.rxn
  expected : s.nexp ≤ 14

namespace Receiving

variable {n : Nat} {s : State}

/-- With a byte taken there is one less to come. -/
theorem taken (h : Receiving (n + 1) s) (b : Byte) : Receiving n (received [b] s) :=
  { h with length := by simpa [received, Nat.add_assoc, Nat.add_comm 1] using h.length }

/-- A byte of the reply completes on the line and is queued (R91). -/
theorem playing_line (h : Receiving n s) (b : Byte) (es : List Event) :
    playing (.line b :: es) s = playing es (queued b s) := by
  have hstep := (captureAndOverrun.1 { s with events := .line b :: es } { s with events := es } b es h.live
    (.inl ⟨rfl, rfl⟩)).1 (.inl h.lineIn) (by simp [h.queue])
  refine playing_cons (hstep.trans ?_)
  simp [queued, h.queue]

/-- A byte that is not the last comes in and is stored (R141). -/
theorem playing_next (h : Receiving (n + 2) s) (b : Byte) (es : List Event) :
    playing (.line b :: .rx :: es) s = playing es (received [b] s) := by
  have hmore : s.rxi + 1 ≠ s.rxn := by have := h.length; omega
  have hstep := receivePhase.2 { queued b s with events := .rx :: es } es b [] rfl h.live h.phase rfl h.noLink hmore
  rw [h.playing_line]
  refine playing_cons (hstep.trans ?_)
  simp [queued, received, fill, h.queue]

/-- The last byte comes in, and the packet is executed (R104, R141). -/
theorem playing_last (h : Receiving 1 s) (b : Byte) :
    playing [.line b, .rx] s =
      exec (statusPacket (received [b] s).rxbuf.toList s.nexp)
        { received [b] s with events := [] } := by
  have hfits : 6 + s.nexp ≤ (received [b] s).rxbuf.toList.length := by
    rw [Vector.length_toList]
    exact Nat.add_le_add_left h.expected 6
  have hstep := stepRunsStatusPacket { queued b s with events := [.rx] } [] b [] _ _ rfl h.live h.phase rfl h.noLink
    h.length (decode_lineIn_eq_ok_iff.mpr ⟨hfits, rfl, rfl⟩)
  rw [h.playing_line, playing_singleton]
  refine hstep.trans ?_
  simp [queued, received, fill, h.queue]

end Receiving

/-- A reply comes in byte by byte and is executed with its last one (R104, R141). -/
theorem playing_receiving {bs : List Byte} {s : State} (h : Receiving bs.length s) (hne : bs ≠ []) :
    playing (receiveEvents bs) s =
      exec (statusPacket (received bs s).rxbuf.toList s.nexp) { received bs s with events := [] } := by
  induction bs generalizing s with
  | nil => exact absurd rfl hne
  | cons b rest ih =>
    cases rest with
    | nil => exact h.playing_last b
    | cons c rest =>
      rw [receiveEvents, h.playing_next, ih (h.taken b) (by simp), received_cons]
      rfl

/-! ### The packet received -/

/-- A buffer after bytes were stored from its start: those bytes, and then what it held there. -/
theorem toList_fill {n : Nat} (v : Vector Byte n) {bs : List Byte} (h : bs.length ≤ n) :
    (fill v 0 bs).toList = bs ++ v.toList.drop bs.length := by
  refine List.ext_getElem (by simp; omega) fun k hk _ => ?_
  have hk : k < n := by simpa using hk
  have hbyte := byteAt_fill v 0 bs k
  rw [List.getElem_append]
  split
  · simp_all [byteAt]
  · simp_all [byteAt, Nat.add_sub_cancel' (Nat.le_of_not_lt ‹_›)]

/-- A status packet is the first bytes of the buffer, however long that is (R62, R104). -/
theorem statusPacket_append {bs : List Byte} {n : Nat} (rest : List Byte) (h : 6 + n = bs.length) :
    statusPacket (bs ++ rest) n = statusPacket bs n := by
  have hbyte (k : Nat) (hk : k < 6 + n) : (bs ++ rest).getD k 0#8 = bs.getD k 0#8 :=
    List.getD_append _ _ _ _ (by omega)
  have hparams : ((bs ++ rest).drop 5).take n = (bs.drop 5).take n := by
    rw [List.drop_append_of_le_length (by omega), List.take_append_of_le_length (by rw [List.length_drop]; omega)]
  rw [statusPacket, statusPacket, hparams, hbyte 0 (by omega), hbyte 1 (by omega), hbyte 2 (by omega),
    hbyte 3 (by omega), hbyte 4 (by omega), hbyte (5 + n) (by omega)]

/-! ### A whole transaction -/

/-- The state in which the reply to an addressed frame is executed: the frame sent, the settle interval over, the reply
in `RXBUF` (R141); every other field is as before. -/
def answered (frame reply : List Byte) (s : State) : State :=
  { s with
    dir := .input
    txi := s.txi + frame.length
    bus := { s.bus with sent := s.bus.sent ++ frame, wire := s.bus.wire ++ frame }
    rxn := 6 + s.nexp
    rxbuf := fill s.rxbuf 0 reply
    rxi := reply.length
    pc := .rxb
    waitCnt := 0#32
    events := [] }

/-- An addressed transaction, from its first byte to the execution of the reply, whatever the reply holds (R141). -/
theorem playing_transaction {frame reply : List Byte} {s : State} (h : Sending frame s) (hne : frame ≠ [])
    (hq : s.rxq = []) (htx : s.op ≠ 0x10#8) (hrx : s.op ≠ 0x11#8) (ht : s.tgt ≠ 0xFE#8) (hn : s.nexp ≤ 14)
    (hreply : reply.length = 6 + s.nexp) :
    playing (sendEvents frame.length ++ .settled :: receiveEvents reply) s =
      exec (statusPacket reply s.nexp) (answered frame reply s) := by
  set u : State := enterSettle (driven frame s) with hu
  have hsent (es : List Event) : playing (sendEvents frame.length ++ es) s = playing es u :=
    playing_sending h hne (afterByte_addressed (s := { driven frame s with events := es }) h.length.ge htx ht)
  have hsettled (es : List Event) : playing (.settled :: es) u = playing es (enterReceive u) :=
    playing_cons (receivePhase.1 { u with events := .settled :: es } es rfl h.live rfl)
  have hreceiving : Receiving reply.length (enterReceive u) :=
    ⟨h.live, rfl, rfl, hq, hrx, (Nat.zero_add _).trans hreply, hn⟩
  have hpacket : statusPacket (received reply (enterReceive u)).rxbuf.toList s.nexp = statusPacket reply s.nexp := by
    have hbuf : (received reply (enterReceive u)).rxbuf = fill s.rxbuf 0 reply := rfl
    rw [hbuf, toList_fill _ (by omega), statusPacket_append _ hreply.symm]
  have hsome : reply ≠ [] := List.ne_nil_of_length_pos (by omega)
  rw [hsent, hsettled, playing_receiving hreceiving hsome, ← hpacket]
  simp [received, enterReceive, hu, enterSettle, driven, answered]

/-- A status packet read by position ends an operation of one transaction; only a check that is enabled finds it
malformed (R104, R106, R146). -/
theorem exec_statusPacket_plain (bs : List Byte) (n : Nat) {s : State}
    (hop : s.op ∈ [0x20#8, 0x21#8, 0x22#8, 0x31#8, 0x32#8, 0x33#8, 0x34#8, 0x35#8, 0x37#8]) :
    ∃ bad : Bool, (s.cfg.getLsbD 2 = false → bad = false) ∧
      exec (statusPacket bs n) s = .next
        (endedState (if s.malformed || bad then 0xB#8 else 0#8)
          (decodedState (bs.getD 2 0#8) (bs.getD 4 0#8) ((bs.drop 5).take n) bad s)) :=
  ⟨_, fun hchk => by rw [hchk, Bool.false_and], plainOperationsComplete s _ _ _ _ _ _ _ hop⟩

/-- The state in which a broadcast write or trigger ends, its frame sent (R146, R147); every other field is as
before. -/
def broadcastSent (frame : List Byte) (s : State) : State :=
  { s with
    dir := .input
    txi := s.txi + frame.length
    bus := { s.bus with sent := s.bus.sent ++ frame, wire := s.bus.wire ++ frame }
    err := 0#8
    rcount := 0#8
    cc := if s.malformed then 0xB#8 else 0#8
    pc := .idle
    abortReq := false
    busy := false
    done := true
    events := [] }

/-- A broadcast write or trigger, from its first byte to its end, whatever is queued (R147). -/
theorem playing_broadcast {frame : List Byte} {s : State} (h : Sending frame s) (hne : frame ≠ [])
    (ht : s.tgt = 0xFE#8) (hop : s.op ∈ [0x21#8, 0x22#8, 0x31#8, 0x32#8, 0x33#8, 0x34#8, 0x35#8, 0x37#8]) :
    playing (sendEvents frame.length) s = .next (broadcastSent frame s) := by
  obtain ⟨-, -, hended, -⟩ := afterByte_frameSent (s := { driven frame s with events := [] }) h.length.ge
  have hsent : playing (sendEvents frame.length ++ []) s = playing [] (broadcastSent frame s) :=
    playing_sending h hne (hended ht hop)
  rw [← List.append_nil (sendEvents _), hsent]
  rfl

/-- Operands left as they were twice (R17, R23, R24). -/
theorem SameOperands.trans {s t u : State} (h : SameOperands s t) (h' : SameOperands t u) : SameOperands s u := by
  simp_all only [SameOperands, and_self]

/-! ### The statements -/

/-- Settles O57. -/
theorem wholeRead : Obligations.WholeRead := by
  unfold Obligations.WholeRead
  intro s reply hrst hb hdir hq hlb hf hid hmost hreply
  set frame := readFrame s.cmdId s.cmdAddr s.cmdCount with hframe
  set u : State := acceptedState 0x20#8 s.cmdId frame s.cmdCount.toNat s with hu
  have haccept (es : List Event) : playing (.hostWrite 13#7 0x20#32 :: es) s = playing es u :=
    playing_hostOp es hrst rfl (readAndTriggerAccepted.1 { s with events := es } hb hf hid hmost)
  have htarget : s.cmdId ≠ 0xFE#8 := by bv_omega
  have hsending : Sending frame u := sending_acceptedState 0x20#8 s.cmdId _ hrst hlb (by simp [hframe, readFrame])
  have hrun : playing (sendEvents 8 ++ .settled :: receiveEvents reply) u =
      exec (statusPacket reply s.cmdCount.toNat) (answered frame reply u) :=
    playing_transaction hsending (by simp [hframe, readFrame]) hq (by simp [hu, acceptedState])
      (by simp [hu, acceptedState]) htarget hmost hreply
  obtain ⟨bad, hbad, hdone⟩ := exec_statusPacket_plain reply s.cmdCount.toNat (s := answered frame reply u)
    (List.mem_cons_self ..)
  set params := (reply.drop 5).take s.cmdCount.toNat with hparams
  have hcount : params.length = s.cmdCount.toNat := by
    rw [hparams, List.length_take, List.length_drop]
    omega
  have hbyte (k : Nat) := byteAt_fill s.rdata 0 params k
  have hoperands (code id err : Byte) : SameOperands (answered frame reply u)
      (endedState code (decodedState id err params bad (answered frame reply u))) := sameOperands_refl _
  have hkept : SameOperands s (answered frame reply u) := sameOperands_refl s
  refine ⟨_, (haccept _).trans (hrun.trans hdone), rfl, rfl, rfl, ?_, fun k hk => (hbyte k).trans ?_,
    fun k hk => (hbyte k).trans (if_neg (by omega)), hreply, hq, rfl, rfl, rfl, rfl, rfl,
    fun hchk => ?_, hkept.trans (hoperands _ _ _)⟩
  · change BitVec.ofNat 8 params.length = s.cmdCount
    rw [hcount, BitVec.ofNat_toNat, BitVec.setWidth_eq]
  · rw [if_pos (by omega), hparams]
    simp [List.getD_eq_getElem?_getD, hk]
  · exact hbad hchk ▸ rfl

/-- Settles O59. -/
theorem wholeBroadcastWrite : Obligations.WholeBroadcastWrite := by
  unfold Obligations.WholeBroadcastWrite
  intro s hrst hb hlb hf hid hsome hmost
  have hone : s.cmdId.toNat ≤ 254 := by simp [hid]
  have hlen : (packet s.cmdId (writeInstr (staged s)) (s.cmdAddr :: operandBytes s)).length = s.cmdCount.toNat + 7 := by
    rw [packet_length, List.length_cons, operandBytes_length (by omega)]
  generalize hframe : packet s.cmdId (writeInstr (staged s)) (s.cmdAddr :: operandBytes s) = frame at hlen
  set u : State := acceptedState 0x21#8 s.cmdId frame 0 s with hu
  have haccept (es : List Event) : playing (.hostWrite 13#7 0x21#32 :: es) s = playing es u :=
    playing_hostOp es hrst rfl (execWrite_runs (s := { s with events := es }) hb hf hone hsome hmost hframe)
  have hsending : Sending frame u := sending_acceptedState 0x21#8 s.cmdId 0 hrst hlb (by omega)
  have hrun := playing_broadcast hsending (List.ne_nil_of_length_pos (by omega)) hid (List.mem_cons_self ..)
  rw [← hlen]
  refine ⟨_, (haccept _).trans hrun, ?_, rfl, rfl, rfl, rfl, rfl, rfl, rfl, rfl, rfl, rfl, rfl, rfl,
    sameOperands_refl s⟩
  change (s.bus.sent ++ frame).length = _
  rw [List.length_append, hlen, Nat.add_assoc]

end Sys2Proof.Machine
end

section
/-! SUPPORT. The setters and getters accepted (R140, R160 to R173): their checks, the frame
that writes or reads one value, and the statements about them. -/

namespace Sys2Proof.Machine

/-! ### The frame of one value -/

/-- The write of a value two bytes wide loads its frame, staged or immediate (R160). -/
theorem setAttr_wideFrame {attr : Attr} {addr : Byte} {s : State} (target : Byte) (raw : Nat) (isStaged : Bool)
    (h : regmap attr (isHR s) = some (addr, 2)) :
    setAttr target attr raw isStaged s =
      nextFrameState target (wideFrame target (writeInstr isStaged) addr raw) 0 s := by
  have hload : setAttr target attr raw isStaged s =
      transact target (writeInstr isStaged) [addr, BitVec.ofNat 8 raw, BitVec.ofNat 8 (raw / 256)] 0 s := by
    rw [setAttr, h]
    exact if_pos rfl
  rw [hload, transact_eq_nextFrameState, packet_eq_wideFrame]

/-- The immediate write of a value one byte wide loads its frame (R160). -/
theorem setAttr_narrowFrame {attr : Attr} {addr : Byte} {s : State} (target : Byte) (raw : Nat)
    (h : regmap attr (isHR s) = some (addr, 1)) :
    setAttr target attr raw false s = nextFrameState target (narrowFrame target addr (BitVec.ofNat 8 raw)) 0 s := by
  have hload : setAttr target attr raw false s =
      transact target Config.writeCode [addr, BitVec.ofNat 8 raw] 0 s := by
    rw [setAttr, h]
    exact if_neg (by decide)
  have hframe : packet target Config.writeCode [addr, BitVec.ofNat 8 raw] =
      narrowFrame target addr (BitVec.ofNat 8 raw) := packet_pair _ _ _ _
  rw [hload, transact_eq_nextFrameState, hframe]

/-- The read of a value loads its frame and expects as many bytes as the value is wide (R160). -/
theorem getAttr_readFrame {attr : Attr} {addr : Byte} {width : Nat} {s : State} (target : Byte)
    (h : regmap attr (isHR s) = some (addr, width)) :
    getAttr target attr s = nextFrameState target (readFrame target addr (BitVec.ofNat 8 width)) width s := by
  have hload : getAttr target attr s = transact target Config.readCode [addr, BitVec.ofNat 8 width] width s := by
    rw [getAttr, h]
  rw [hload, transact_eq_nextFrameState, packet_eq_readFrame]

/-- The byte written of a value taken as it is (R121). -/
theorem ofNat_encDirect (v : Word) : BitVec.ofNat 8 (encDirect v) = v.setWidth 8 := by
  rw [encDirect]
  bv_omega

/-! ### The checks -/

/-- A setter that defines no flag passes its checks for a target that is an ID and a value of its domain (R77, R140). -/
theorem setterChecks_pass {target : Byte} {lo hi : Int} {s : State} (hf : s.cmdFlags = 0#8) (hid : target ≠ 0xFF#8)
    (hlo : lo ≤ s.val.toInt) (hhi : s.val.toInt ≤ hi) :
    firstFail [flagsCheck noFlags s, idCheck target, valCheck lo hi s] = none := by
  rw [firstFail_eq_none]
  simp only [List.forall_mem_cons, List.not_mem_nil, false_implies, implies_true, and_true]
  exact ⟨badFlags_of_zero noFlags hf, (idCheck_eq_false _).mpr hid, (outside_eq_false lo hi s).mpr ⟨hlo, hhi⟩⟩

/-- A switch is 0 or 1 (R77). -/
theorem switch_range {v : Word} (h : v = 0#32 ∨ v = 1#32) : 0 ≤ v.toInt ∧ v.toInt ≤ 1 := by
  rcases h with rfl | rfl <;> decide

/-- `SET_GOAL` finds no undefined flag where the reserved bits of `CMD_FLAGS` are clear (R22, R140). -/
theorem badFlags_stagedAndBlocking {s : State} (h : s.cmdFlags &&& 0xFC#8 = 0#8) :
    badFlags stagedAndBlocking s = false := by
  have hmask : ~~~stagedAndBlocking = 0xFC#8 := rfl
  rw [badFlags, hmask, h]
  rfl

/-- A blocking `SET_GOAL` polls, so its target is not the broadcast ID (R140 check 4, R161). -/
theorem blockingCheck_eq_false (s : State) :
    (blocking s && s.devId == Config.broadcastId) = false ↔ (blocking s = true → s.devId ≠ 0xFE#8) := by
  simp [Config.broadcastId]

/-- `SET_GOAL` passes its checks with its two flags in any combination, a target that is an ID, addressed when it is to
be polled, and an angle (R77, R140, R161). -/
theorem setGoalChecks_pass {s : State} (hf : s.cmdFlags &&& 0xFC#8 = 0#8) (hid : s.devId ≠ 0xFF#8)
    (hpolled : blocking s = true → s.devId ≠ 0xFE#8) (hlo : 0 ≤ s.val.toInt) (hhi : s.val.toInt ≤ 23592960) :
    firstFail [flagsCheck stagedAndBlocking s, idCheck s.devId,
      (blocking s && s.devId == Config.broadcastId, .broadcastRead), angleCheck s] = none := by
  rw [firstFail_eq_none]
  simp only [List.forall_mem_cons, List.not_mem_nil, false_implies, implies_true, and_true]
  exact ⟨badFlags_stagedAndBlocking hf, (idCheck_eq_false _).mpr hid, (blockingCheck_eq_false s).mpr hpolled,
    (outside_eq_false 0 23592960 s).mpr ⟨hlo, hhi⟩⟩

/-- With no flag and an addressed target a getter passes its checks (R140, R169). -/
theorem getterChecks_pass {s : State} (hf : s.cmdFlags = 0#8) (hid : s.devId.toNat ≤ 253) :
    firstFail (getterChecks s) = none := by
  have hnone : s.devId ≠ 0xFF#8 := by bv_omega
  have hall : s.devId ≠ 0xFE#8 := by bv_omega
  rw [getterChecks, firstFail_eq_none]
  simp only [List.forall_mem_cons, List.not_mem_nil, false_implies, implies_true, and_true]
  exact ⟨badFlags_of_zero noFlags hf, (idCheck_eq_false _).mpr hnone, (broadcastCheck_eq_false _).mpr hall⟩

/-- `GET_CURRENT` passes the check of the family as well on HR (R140 check 5, R172). -/
theorem getCurrentChecks_pass {s : State} (hpass : firstFail (getterChecks s) = none) (hHR : isHR s = true) :
    firstFail (getterChecks s ++ [familyCheck s]) = none := by
  rw [firstFail_eq_none, List.forall_mem_append, List.forall_mem_singleton]
  exact ⟨firstFail_eq_none.mp hpass, by simp [familyCheck, hHR]⟩

/-! ### An operation whose checks hold back loads its frame -/

section

variable {i : Instr} {op addr : Byte} {attr : Attr} {checks : State → List (Bool × Completion)} {run : State → State}
  {s : State}

/-- A setter of a value two bytes wide (R140, R160). -/
theorem exec_wideSetter {target : Byte} {raw : Nat} (isStaged : Bool) (harm : exec i s = accept op checks run s)
    (hb : s.busy = false) (hpass : firstFail (checks (beginOp op s)) = none)
    (hrun : run (beginOp op s) = setAttr target attr raw isStaged (beginOp op s))
    (hreg : regmap attr (isHR s) = some (addr, 2)) :
    exec i s = .next (acceptedState op target (wideFrame target (writeInstr isStaged) addr raw) 0 s) := by
  have hframe := setAttr_wideFrame (s := beginOp op s) target raw isStaged hreg
  rw [harm, accept_runs _ _ _ s hb hpass, hrun, hframe]
  rfl

/-- A setter of a value one byte wide, which is `VAL` as it stands (R121, R140, R160). -/
theorem exec_narrowSetter {target : Byte} (harm : exec i s = accept op checks run s)
    (hb : s.busy = false) (hpass : firstFail (checks (beginOp op s)) = none)
    (hrun : run (beginOp op s) = setAttr target attr (encDirect s.val) false (beginOp op s))
    (hreg : regmap attr (isHR s) = some (addr, 1)) :
    exec i s = .next (acceptedState op target (narrowFrame target addr (s.val.setWidth 8)) 0 s) := by
  have hframe := setAttr_narrowFrame (s := beginOp op s) target (encDirect s.val) hreg
  rw [harm, accept_runs _ _ _ s hb hpass, hrun, hframe, ofNat_encDirect]
  rfl

/-- A getter (R140, R160). -/
theorem exec_getter {width : Nat} (harm : exec i s = accept op checks run s)
    (hb : s.busy = false) (hpass : firstFail (checks (beginOp op s)) = none)
    (hrun : run (beginOp op s) = getAttr s.devId attr (beginOp op s))
    (hreg : regmap attr (isHR s) = some (addr, width)) :
    exec i s = .next (acceptedState op s.devId (readFrame s.devId addr (BitVec.ofNat 8 width)) width s) := by
  have hframe := getAttr_readFrame (s := beginOp op s) s.devId hreg
  rw [harm, accept_runs _ _ _ s hb hpass, hrun, hframe]
  rfl

end

/-! ### The statements -/

/-- Settles O16. -/
theorem setGoalAccepted : Obligations.SetGoalAccepted := by
  unfold Obligations.SetGoalAccepted
  intro s hb hf hid hpolled hlo hhi
  rw [← encAngle_eq]
  exact exec_wideSetter (staged s) (execSetGoal.eq_1 s) hb (setGoalChecks_pass hf hid hpolled hlo hhi) rfl rfl

/-- Settles O17. -/
theorem angleLimitsAccepted : Obligations.AngleLimitsAccepted := by
  unfold Obligations.AngleLimitsAccepted
  intro s hb hf hid hlo hhi raw
  have hraw : encAngle s.val.toInt = raw := encAngle_eq _
  have hpass := setterChecks_pass hf hid hlo hhi
  rw [← hraw]
  exact ⟨exec_wideSetter false (execSetCwLimit.eq_1 s) hb hpass rfl rfl,
    exec_wideSetter false (execSetCcwLimit.eq_1 s) hb hpass rfl rfl⟩

/-- Settles O18. -/
theorem speedAndTorqueAccepted : Obligations.SpeedAndTorqueAccepted := by
  unfold Obligations.SpeedAndTorqueAccepted
  refine ⟨fun s hb hf hid hlo hhi => ?_, fun s hb hf hid hlo hhi => ?_, fun s hb hf hid hv => ?_⟩
  · have hmagnitude : s.val.toInt.natAbs ≤ 65536 := by omega
    rw [← speedMagnitude_eq, ← encSpeed_eq_add hmagnitude]
    exact exec_wideSetter false (execSetCrSpeed.eq_1 s) hb (setterChecks_pass hf hid hlo hhi) rfl rfl
  · rw [← encTorque_eq]
    exact exec_wideSetter false (execSetTorqueLimit.eq_1 s) hb (setterChecks_pass hf hid hlo hhi) rfl rfl
  · obtain ⟨hlo, hhi⟩ := switch_range hv
    exact exec_narrowSetter (execTorqueEnable.eq_1 s) hb (setterChecks_pass hf hid hlo hhi) rfl rfl

/-- Settles O19. -/
theorem modeAndIdAccepted : Obligations.ModeAndIdAccepted := by
  unfold Obligations.ModeAndIdAccepted
  refine ⟨fun s hb hf hid hv => ?_, fun s hb hf hid hlo hhi => ?_⟩
  · obtain ⟨hlo, hhi⟩ := switch_range hv
    exact exec_wideSetter (attr := .cwLimit) false (execSetMode.eq_1 s) hb (setterChecks_pass hf hid hlo hhi) rfl rfl
  · exact exec_narrowSetter (execSetId.eq_1 s) hb (setterChecks_pass hf hid hlo hhi) rfl rfl

/-- Settles O20. -/
theorem gettersAccepted : Obligations.GettersAccepted := by
  unfold Obligations.GettersAccepted
  intro s hb hf hid
  have hpass : firstFail (getterChecks s) = none := getterChecks_pass hf hid
  refine ⟨exec_getter (execGetPosition.eq_1 s) hb hpass rfl rfl,
    exec_getter (execGetTemperature.eq_1 s) hb hpass rfl rfl, exec_getter (execGetVoltage.eq_1 s) hb hpass rfl rfl,
    exec_getter (execIsMoving.eq_1 s) hb hpass rfl rfl, fun hr => ?_⟩
  have hHR : isHR s = true := hr
  exact exec_getter (execGetCurrent.eq_1 s) hb (getCurrentChecks_pass hpass hHR) rfl (by rw [hHR]; rfl)

end Sys2Proof.Machine
end

section
/-! SUPPORT. The operations of several transactions after one of them (R161, R167): what an acknowledgement
and a poll write, the branches of `SET_GOAL`, a whole `GET_CURRENT`, and the statements about them. -/

namespace Sys2Proof.Machine

/-! ### Short status packets -/

/-- The status packet that acknowledges a write has no parameters (R104, R106). -/
theorem exec_spkt_ack (h0 h1 id len err chk : Byte) (s : State) :
    exec (.spkt h0 h1 id len err [] chk) s = .next (afterTransaction (decodedState id err []
      (s.cfg.getLsbD 2 && (len.toNat != 2 || chk != 0xFF#8 - (id + len + err))) s)) := by
  rw [exec_spkt, byteSum, BitVec.add_zero]
  rfl

/-- The status packet that answers the read of one register has one parameter (R104, R106). -/
theorem exec_spkt_byte (h0 h1 id len err m chk : Byte) (s : State) :
    exec (.spkt h0 h1 id len err [m] chk) s = .next (afterTransaction (decodedState id err [m]
      (s.cfg.getLsbD 2 && (len.toNat != 3 || chk != 0xFF#8 - (id + len + err + m))) s)) := by
  rw [exec_spkt, byteSum, byteSum, BitVec.add_zero]
  rfl

/-! ### `SET_GOAL` after a transaction -/

/-- The read of the moving flag (R115, R161). -/
theorem getAttr_moving (target : Byte) (s : State) :
    getAttr target .moving s = nextFrameState target (readFrame target 0x2E#8 1#8) 1 s :=
  getAttr_readFrame target rfl

/-- Without `BLOCKING` the write ends `SET_GOAL` (R161). -/
theorem continueSetGoal_nonBlocking {s : State} (h : s.cmdFlags.getLsbD 1 = false) :
    continueSetGoal s = complete .ok s :=
  if_neg (Bool.eq_false_iff.mp h)

/-- After the write of a blocking `SET_GOAL` its error code is kept and the first poll begins (R161). -/
theorem continueSetGoal_firstPoll {s : State} (h : s.cmdFlags.getLsbD 1 = true) (hsub : s.sub = 0) :
    continueSetGoal s =
      { nextFrameState s.devId (readFrame s.devId 0x2E#8 1#8) 1 s with werr := s.err, sub := 1 } := by
  have hblocking : blocking s = true := h
  rw [continueSetGoal, if_pos hblocking, if_pos hsub, getAttr_moving]
  rfl

/-- After a poll of a blocking `SET_GOAL` the poll is counted (R161). -/
theorem continueSetGoal_poll {s : State} (h : s.cmdFlags.getLsbD 1 = true) (hsub : s.sub ≠ 0) :
    continueSetGoal s = afterPoll (countPoll s) := by
  have hblocking : blocking s = true := h
  rw [continueSetGoal, if_pos hblocking, if_neg hsub]

/-- Within 16 bits a poll counts one and draws no free value (R35, R161). -/
theorem countPoll_within {s : State} (h : s.pollcnt ≠ 0xFFFF#16) :
    (countPoll s).pollcnt = s.pollcnt + 1#16 ∧ (countPoll s).free = s.free := by
  rw [countPoll, if_neg (show s.pollcnt ≠ BitVec.allOnes 16 from h)]
  exact ⟨rfl, rfl⟩

/-- The count, and the number of free values drawn, are all that counting a poll writes (R161). -/
theorem countPoll_eq_update (s : State) :
    countPoll s = { s with pollcnt := (countPoll s).pollcnt, free := (countPoll s).free } := by
  unfold countPoll
  split <;> rfl

/-- The limit is reached when there is one and the count is it (R16). -/
theorem pollLimitReached_iff (s : State) :
    pollLimitReached s = true ↔ s.pollLimit ≠ 0#16 ∧ s.pollcnt = s.pollLimit := by
  simp [pollLimitReached]

/-- A moving flag of 0 ends the operation, before the limit is looked at (R161). -/
theorem afterPoll_atRest {s : State} (h : byteAt s.rdata 0 = 0#8) : afterPoll s = complete .ok (restoreErr s) :=
  if_pos h

/-- At the limit a servo that still moves ends it with `PollExpired` (R161). -/
theorem afterPoll_expired {s : State} (h : byteAt s.rdata 0 ≠ 0#8) (hlimit : s.pollLimit ≠ 0#16)
    (hcount : s.pollcnt = s.pollLimit) : afterPoll s = complete .pollExpired (restoreErr s) := by
  rw [afterPoll, if_neg h, if_pos ((pollLimitReached_iff s).mpr ⟨hlimit, hcount⟩)]

/-- Short of the limit, or without one, it is polled again (R161). -/
theorem afterPoll_again {s : State} (h : byteAt s.rdata 0 ≠ 0#8)
    (hmore : s.pollLimit = 0#16 ∨ s.pollcnt ≠ s.pollLimit) :
    afterPoll s = nextFrameState s.devId (readFrame s.devId 0x2E#8 1#8) 1 s := by
  have hnot : ¬pollLimitReached s = true := by
    rw [pollLimitReached_iff]
    tauto
  rw [afterPoll, if_neg h, if_neg hnot, getAttr_moving]

/-- Settles O39. -/
theorem setGoalAfterWrite : Obligations.SetGoalAfterWrite := by
  unfold Obligations.SetGoalAfterWrite
  intro s h0 h1 id len err chk hop hsub bad
  set u : State := decodedState id err [] bad s
  have hexec : exec (.spkt h0 h1 id len err [] chk) s = .next (continueSetGoal u) := by
    rw [exec_spkt_ack, afterTransaction_setGoal (s := decodedState id err [] _ s) hop]
  refine ⟨fun hnon => ?_, fun hblocking => ?_⟩
  · rw [hexec, continueSetGoal_nonBlocking (s := u) hnon, complete_ok]
    rfl
  · rw [hexec, continueSetGoal_firstPoll (s := u) hblocking hsub]
    rfl

/-- Settles O40: the count is what counting the poll leaves, whatever it is past 16 bits. -/
theorem setGoalAfterPoll : Obligations.SetGoalAfterPoll := by
  unfold Obligations.SetGoalAfterPoll
  intro s h0 h1 id len err m chk hop hblocking hsub bad u
  set w : State := countPoll u
  have hexec : exec (.spkt h0 h1 id len err [m] chk) s = .next (afterPoll w) := by
    rw [exec_spkt_byte, afterTransaction_setGoal (s := decodedState id err [m] _ s) hop,
      continueSetGoal_poll (s := decodedState id err [m] _ s) hblocking hsub]
  have hcounted : w = { u with pollcnt := w.pollcnt, free := w.free } := countPoll_eq_update u
  have hflag : byteAt w.rdata 0 = m := by
    rw [hcounted]
    exact (byteAt_fill s.rdata 0 [m] 0).trans (by simp)
  have hlimit : w.pollLimit = s.pollLimit := by rw [hcounted]; rfl
  refine ⟨w.pollcnt, w.free, countPoll_within (s := u), fun hm => ?_, fun hm hsome hcount => ?_, fun hm hmore => ?_⟩
  · rw [hexec, afterPoll_atRest (hflag.trans hm), complete_ok, hcounted]
    rfl
  · rw [hexec, afterPoll_expired (hflag ▸ hm) (hlimit ▸ hsome) (hlimit ▸ hcount), complete_raised (by decide),
      hcounted]
    rfl
  · rw [hexec, afterPoll_again (hflag ▸ hm) (hlimit ▸ hmore), hcounted]
    rfl

/-! ### `SET_MODE` after a write -/

/-- Settles O41. -/
theorem setModeSequence : Obligations.SetModeSequence := by
  unfold Obligations.SetModeSequence
  intro s h0 h1 id len err chk hop bad u
  have hexec : exec (.spkt h0 h1 id len err [] chk) s = .next (continueSetMode u) := by
    rw [exec_spkt_ack, afterTransaction_setMode (s := decodedState id err [] _ s) hop]
  obtain ⟨second, third, last⟩ := continueSetMode_cases u
  rw [hexec]
  refine ⟨fun hsub => congrArg _ (second hsub), fun hsub => congrArg _ (third hsub), fun hsub => ?_⟩
  rw [last hsub, complete_ok]
  rfl

/-! ### A whole `GET_CURRENT` -/

/-- A status packet of two parameters, read by position (R62, R104). -/
theorem statusPacket_two {bs : List Byte} (h : bs.length = 8) :
    statusPacket bs 2 = .spkt (bs.getD 0 0#8) (bs.getD 1 0#8) (bs.getD 2 0#8) (bs.getD 3 0#8) (bs.getD 4 0#8)
      [bs.getD 5 0#8, bs.getD 6 0#8] (bs.getD 7 0#8) :=
  match bs, h with
  | [_, _, _, _, _, _, _, _], _ => rfl

/-- A status packet read by position ends `GET_CURRENT` with the scaled current; only a check that is enabled finds it
malformed (R106, R127, R172). -/
theorem exec_statusPacket_getCurrent {bs : List Byte} {s : State} (h : bs.length = 8) (hop : s.op = 0x43#8) :
    ∃ bad : Bool, (s.cfg.getLsbD 2 = false → bad = false) ∧
      exec (statusPacket bs 2) s = .next
        { endedState (if s.malformed || bad then 0xB#8 else 0#8)
            (decodedState (bs.getD 2 0#8) (bs.getD 4 0#8) [bs.getD 5 0#8, bs.getD 6 0#8] bad s) with
          result := BitVec.ofInt 32
            (((bs.getD 5 0#8).toNat + 256 * (bs.getD 6 0#8).toNat - 2303 : Int) * 45) } := by
  obtain ⟨-, -, -, hscaled, -⟩ := gettersScaleTheReply s (bs.getD 0 0#8) (bs.getD 1 0#8) (bs.getD 2 0#8)
    (bs.getD 3 0#8) (bs.getD 4 0#8) (bs.getD 5 0#8) (bs.getD 6 0#8) (bs.getD 7 0#8)
  rw [statusPacket_two h]
  exact ⟨_, fun hchk => Bool.and_eq_false_iff.mpr (.inl hchk), hscaled hop⟩

/-- Settles O58. -/
theorem wholeGetCurrent : Obligations.WholeGetCurrent := by
  unfold Obligations.WholeGetCurrent
  intro s reply hrst hb hdir hq hlb hr hf hid hreply
  set frame := readFrame s.devId 0x44#8 2#8 with hframe
  set u : State := acceptedState 0x43#8 s.devId frame 2 s with hu
  have haccept (es : List Event) : playing (.hostWrite 13#7 0x43#32 :: es) s = playing es u := by
    obtain ⟨-, -, -, -, hcurrent⟩ := gettersAccepted { s with events := es } hb hf hid
    exact playing_hostOp es hrst rfl (hcurrent hr)
  have htarget : s.devId ≠ 0xFE#8 := by bv_omega
  have hsending : Sending frame u := sending_acceptedState 0x43#8 s.devId _ hrst hlb (by simp [hframe, readFrame])
  have hrun : playing (sendEvents 8 ++ .settled :: receiveEvents reply) u =
      exec (statusPacket reply 2) (answered frame reply u) :=
    playing_transaction hsending (by simp [hframe, readFrame]) hq (by simp [hu, acceptedState])
      (by simp [hu, acceptedState]) htarget (by simp [hu, acceptedState]) hreply
  obtain ⟨bad, hbad, hdone⟩ := exec_statusPacket_getCurrent (s := answered frame reply u) hreply rfl
  have hkept : SameOperands s (answered frame reply u) := sameOperands_refl s
  refine ⟨_, (haccept _).trans (hrun.trans hdone), rfl, rfl, rfl, rfl, rfl, hq, rfl, rfl, fun hchk => ?_, hkept⟩
  exact hbad hchk ▸ rfl

end Sys2Proof.Machine
end

section
/-! SUPPORT. What is refused (R140, R194): the code of the first failing check, each check said as the condition that
fails it, and the statements about them. -/

namespace Sys2Proof.Machine

/-! ### The code of the first failing check -/

/-- A check that fails gives its code (R194). -/
theorem firstFail_code_of_fails {b : Bool} {p : Prop} {d : Completion} {l : List (Bool × Completion)} {c : Byte}
    (hb : b = true ↔ p) (h : p ∧ c = d.code) : (firstFail ((b, d) :: l)).map Completion.code = some c := by
  obtain ⟨hp, rfl⟩ := h
  rw [hb.mpr hp, firstFail_true, Option.map_some]

/-- A check gives its code where it fails, and leaves the code to those after it where it does not (R194). -/
theorem firstFail_code_of_ite {b : Bool} {p q : Prop} [Decidable p] {d : Completion} {l : List (Bool × Completion)}
    {c : Byte} (hb : b = true ↔ p) (hrest : q → (firstFail l).map Completion.code = some c)
    (h : if p then c = d.code else q) : (firstFail ((b, d) :: l)).map Completion.code = some c := by
  by_cases hp : p
  · exact firstFail_code_of_fails hb ⟨hp, by rwa [if_pos hp] at h⟩
  · have hpasses : b = false := Bool.eq_false_iff.mpr (mt hb.mp hp)
    rw [if_neg hp] at h
    rw [hpasses, firstFail_false, hrest h]

/-- Acceptance has cleared `MALFORMED`, so a completion in the same step reports its own code (R140, R195). -/
theorem complete_beginOp (op : Byte) (d : Completion) (s : State) :
    complete d (beginOp op s) = refusedState op d.code s := by
  simp [complete, beginOp, refusedState, finalCode]

/-- An operation with a failing check ends in the step that accepts it, with the code of the first (R140, R194). -/
theorem exec_refused {i : Instr} {op c : Byte} {checks : State → List (Bool × Completion)} {run : State → State}
    {s : State} (harm : exec i s = accept op checks run s) (hb : s.busy = false)
    (hfail : (firstFail (checks (beginOp op s))).map Completion.code = some c) :
    exec i s = .next (refusedState op c s) := by
  obtain ⟨d, hd, rfl⟩ := Option.map_eq_some_iff.mp hfail
  rw [harm, accept_refused op checks run s d hb hd, complete_beginOp]

/-! ### What fails each check -/

/-- Check 2 of R140, `mask` being the flags the operation does not define (R22). -/
theorem flagsCheck_eq_true {defined mask : Byte} (hmask : ~~~defined = mask) (s : State) :
    (flagsCheck defined s).1 = true ↔ s.cmdFlags &&& mask ≠ 0#8 := by
  rw [flagsCheck, badFlags, hmask, bne_iff_ne]

/-- Check 2 of R140 where no flag is defined. -/
theorem flagsCheck_noFlags_eq_true (s : State) : (flagsCheck noFlags s).1 = true ↔ s.cmdFlags ≠ 0#8 := by
  rw [flagsCheck, badFlags_noFlags, bne_iff_ne]

/-- Check 3 of R140. -/
theorem idCheck_eq_true (target : Byte) : (idCheck target).1 = true ↔ target = 0xFF#8 := beq_iff_eq

/-- Check 4 of R140. -/
theorem broadcastCheck_eq_true (target : Byte) : (broadcastCheck target).1 = true ↔ target = 0xFE#8 := beq_iff_eq

/-- Check 4 of R140 for `SET_GOAL`, which reads only when it polls (R161). -/
theorem blockingCheck_eq_true (s : State) :
    (blocking s && s.devId == Config.broadcastId) = true ↔ s.cmdFlags.getLsbD 1 = true ∧ s.devId = 0xFE#8 := by
  rw [Bool.and_eq_true, beq_iff_eq]
  rfl

/-- Check 5 of R140. -/
theorem familyCheck_eq_true (s : State) : (familyCheck s).1 = true ↔ s.cfg.getLsbD 0 = false :=
  iff_of_eq (Bool.not_eq_true' _)

/-- Check 6 of R140. -/
theorem countCheck_eq_true (limit : Nat) (s : State) : (countCheck limit s).1 = true ↔ limit < s.cmdCount.toNat :=
  decide_eq_true_iff

/-- Check 7 of R140 for `CMD_COUNT`. -/
theorem someBytesCheck_eq_true (s : State) : (someBytesCheck s).1 = true ↔ s.cmdCount = 0#8 := beq_iff_eq

/-! ### Link and register operations -/

/-- An operation whose only check is that of the flags is refused for any flag (R96, R140, R145). -/
theorem noFlagsCheck_fails {c : Byte} {s : State} (h : s.cmdFlags ≠ 0#8 ∧ c = 2#8) :
    (firstFail [flagsCheck noFlags s]).map Completion.code = some c :=
  firstFail_code_of_fails (flagsCheck_noFlags_eq_true s) h

/-- Settles O22, check by check in the order of R140. -/
theorem linkAndRegisterRefusals : Obligations.LinkAndRegisterRefusals := by
  unfold Obligations.LinkAndRegisterRefusals
  intro s c hb
  refine ⟨fun h => exec_refused (execLinkTx.eq_1 s) hb ?linkTx,
    fun h => exec_refused (execLinkRx.eq_1 s) hb (noFlagsCheck_fails h),
    fun h => exec_refused (execRead.eq_1 s) hb ?read, fun h => exec_refused (execWrite.eq_1 s) hb ?write,
    fun h => exec_refused (execTrigger.eq_1 s) hb (noFlagsCheck_fails h)⟩
  case linkTx =>
    refine firstFail_code_of_ite (flagsCheck_noFlags_eq_true s) (fun h => ?_) h
    refine firstFail_code_of_ite (countCheck_eq_true 14 s) (fun h => ?_) h
    exact firstFail_code_of_fails (someBytesCheck_eq_true s) h
  case read =>
    refine firstFail_code_of_ite (flagsCheck_noFlags_eq_true s) (fun h => ?_) h
    refine firstFail_code_of_ite (idCheck_eq_true s.cmdId) (fun h => ?_) h
    refine firstFail_code_of_ite (broadcastCheck_eq_true s.cmdId) (fun h => ?_) h
    exact firstFail_code_of_fails (countCheck_eq_true 14 s) h
  case write =>
    refine firstFail_code_of_ite (flagsCheck_eq_true (defined := stagedFlag) rfl s) (fun h => ?_) h
    refine firstFail_code_of_ite (idCheck_eq_true s.cmdId) (fun h => ?_) h
    refine firstFail_code_of_ite (countCheck_eq_true 13 s) (fun h => ?_) h
    exact firstFail_code_of_fails (someBytesCheck_eq_true s) h

/-! ### Setters -/

/-- The checks of a setter that defines no flag, in their order (R77, R140). -/
theorem setterChecks_fail {target c : Byte} {lo hi : Int} {s : State}
    (h : if s.cmdFlags ≠ 0#8 then c = 2#8 else if target = 0xFF#8 then c = 3#8 else
      (s.val.toInt < lo ∨ hi < s.val.toInt) ∧ c = 7#8) :
    (firstFail [flagsCheck noFlags s, idCheck target, valCheck lo hi s]).map Completion.code = some c := by
  refine firstFail_code_of_ite (flagsCheck_noFlags_eq_true s) (fun h => ?_) h
  refine firstFail_code_of_ite (idCheck_eq_true target) (fun h => ?_) h
  exact firstFail_code_of_fails (outside_eq_true lo hi s) h

/-- The setters of `DEV_ID` that define no flag differ in their opcode, their domain and what they write (R77, R162 to
R167). -/
theorem exec_devIdSetter {i : Instr} {op : Byte} {lo hi : Int}
    (h : (i, op, lo, hi) ∈ [(Instr.setCwLimit, 0x31#8, (0 : Int), (23592960 : Int)), (.setCcwLimit, 0x32#8, 0, 23592960),
      (.setCrSpeed, 0x33#8, -65536, 65536), (.setTorqueLimit, 0x34#8, 0, 65536), (.torqueEnable, 0x35#8, 0, 1),
      (.setMode, 0x36#8, 0, 1)]) (s : State) :
    ∃ run, exec i s = accept op (fun s => [flagsCheck noFlags s, idCheck s.devId, valCheck lo hi s]) run s := by
  simp only [List.mem_cons, List.not_mem_nil, or_false, Prod.mk.injEq] at h
  rcases h with ⟨rfl, rfl, rfl, rfl⟩ | ⟨rfl, rfl, rfl, rfl⟩ | ⟨rfl, rfl, rfl, rfl⟩ | ⟨rfl, rfl, rfl, rfl⟩ |
    ⟨rfl, rfl, rfl, rfl⟩ | ⟨rfl, rfl, rfl, rfl⟩
  exacts [⟨_, execSetCwLimit.eq_1 s⟩, ⟨_, execSetCcwLimit.eq_1 s⟩, ⟨_, execSetCrSpeed.eq_1 s⟩,
    ⟨_, execSetTorqueLimit.eq_1 s⟩, ⟨_, execTorqueEnable.eq_1 s⟩, ⟨_, execSetMode.eq_1 s⟩]

/-- Settles O23: the setters of `DEV_ID` without flags, and `SET_ID`, share one list of checks. -/
theorem setterRefusals : Obligations.SetterRefusals := by
  unfold Obligations.SetterRefusals
  intro s c hb
  refine ⟨fun h => exec_refused (execSetGoal.eq_1 s) hb ?setGoal, fun i op lo hi hmem h => ?devIdSetter,
    fun h => exec_refused (execSetId.eq_1 s) hb (setterChecks_fail (target := s.cmdId) h)⟩
  case setGoal =>
    refine firstFail_code_of_ite (flagsCheck_eq_true (defined := stagedAndBlocking) rfl s) (fun h => ?_) h
    refine firstFail_code_of_ite (idCheck_eq_true s.devId) (fun h => ?_) h
    refine firstFail_code_of_ite (blockingCheck_eq_true s) (fun h => ?_) h
    exact firstFail_code_of_fails (outside_eq_true 0 23592960 s) h
  case devIdSetter =>
    obtain ⟨run, harm⟩ := exec_devIdSetter hmem s
    exact exec_refused harm hb (setterChecks_fail (target := s.devId) h)

/-! ### Getters -/

/-- The getters of both families differ in their opcode and what they read (R169 to R171, R173). -/
theorem exec_familyFreeGetter {i : Instr} {op : Byte}
    (h : (i, op) ∈ [(Instr.getPosition, 0x40#8), (.getTemperature, 0x41#8), (.getVoltage, 0x42#8),
      (.isMoving, 0x44#8)]) (s : State) : ∃ run, exec i s = accept op getterChecks run s := by
  simp only [List.mem_cons, List.not_mem_nil, or_false, Prod.mk.injEq] at h
  rcases h with ⟨rfl, rfl⟩ | ⟨rfl, rfl⟩ | ⟨rfl, rfl⟩ | ⟨rfl, rfl⟩
  exacts [⟨_, execGetPosition.eq_1 s⟩, ⟨_, execGetTemperature.eq_1 s⟩, ⟨_, execGetVoltage.eq_1 s⟩,
    ⟨_, execIsMoving.eq_1 s⟩]

/-- Settles O24, check by check in the order of R140. -/
theorem getterRefusals : Obligations.GetterRefusals := by
  unfold Obligations.GetterRefusals
  intro s c hb
  refine ⟨fun i op hmem h => ?familyFree, fun h => exec_refused (execGetCurrent.eq_1 s) hb ?current⟩
  case familyFree =>
    obtain ⟨run, harm⟩ := exec_familyFreeGetter hmem s
    refine exec_refused harm hb ?_
    refine firstFail_code_of_ite (flagsCheck_noFlags_eq_true s) (fun h => ?_) h
    refine firstFail_code_of_ite (idCheck_eq_true s.devId) (fun h => ?_) h
    exact firstFail_code_of_fails (broadcastCheck_eq_true s.devId) h
  case current =>
    refine firstFail_code_of_ite (flagsCheck_noFlags_eq_true s) (fun h => ?_) h
    refine firstFail_code_of_ite (idCheck_eq_true s.devId) (fun h => ?_) h
    refine firstFail_code_of_ite (broadcastCheck_eq_true s.devId) (fun h => ?_) h
    exact firstFail_code_of_fails (familyCheck_eq_true s) h

end Sys2Proof.Machine
end

section
/-! SUPPORT. The reset input: what it does at its edges and what it leaves out while it is high, and the values of reset
(R215 to R217), with the statements about them. -/

namespace Sys2Proof.Machine

/-! ### The values of reset -/

/-- Settles O10: the reset values are bounded and no operation runs. -/
theorem resetMeetsInvariant : Obligations.ResetMeetsInvariant := by
  unfold Obligations.ResetMeetsInvariant
  exact reset_bounded.inv_of_idle ⟨rfl, rfl, rfl⟩

/-- A number stored in a register of 16 bits is cut to them (log entry 4). -/
theorem half_toNat (n : Nat) : (BitVec.ofNat 16 n : Half).toNat = n % 65536 := BitVec.toNat_ofNat n 16

/-- Settles O11: `BAUDDIV` and `SETTLE` are cut to 16 bits, every other value is the one of R216. -/
theorem resetValues : Obligations.ResetValues := by
  unfold Obligations.ResetValues
  have hoperands : SameOperands State.reset State.reset := sameOperands_refl State.reset
  have hbauddiv := half_toNat ((2 * Config.fClk + 1000000) / 2000000)
  have hsettle := half_toNat ((Config.fClk + 49999) / 50000)
  have hstatus : statusByte State.reset = 0#8 := by decide
  exact ⟨hoperands, hbauddiv, hsettle, rfl, hstatus, rfl, rfl, rfl, rfl, rfl, rfl, rfl, rfl, rfl, rfl, rfl, rfl, rfl,
    rfl, rfl, rfl, rfl, rfl, rfl⟩

/-! ### While the reset input is high -/

/-- Under reset no step of the sequencer is taken (R215). -/
theorem unlessReset_reset {s : State} (go : Out) (h : s.rst = true) : unlessReset s go = .next s := if_pos h

/-- Under reset the receiver hears nothing (R215). -/
theorem capture_reset (b : Byte) {s : State} (h : s.rst = true) : capture b s = s :=
  capture_deaf b (by simp [listening, h])

/-- A byte the actuators owe that arrives under reset is lost to the core: it is owed no more (R215, R217). -/
theorem deliverReply_reset {s : State} (h : s.rst = true) :
    deliverReply s = { s with bus := { s.bus with reply := s.bus.reply.tail } } := by
  unfold deliverReply
  split
  next hq =>
    have hsame : s.bus.reply.tail = s.bus.reply := by rw [hq, List.tail_nil]
    rw [hsame]
  next b q hq =>
    rw [hq, List.tail_cons]
    exact capture_reset b h

/-- Settles O12: the two edges by what `setRst` writes, and event by event what a high level leaves out. -/
theorem resetInput : Obligations.ResetInput := by
  unfold Obligations.ResetInput
  refine ⟨fun s es he => step_cons he, fun s e es hrst he hfrozen => ?frozen, fun s es he => step_cons he,
    fun s es hrst he => ?reply⟩
  case frozen =>
    rw [step_cons he]
    set u : State := { s with events := es }
    have hu : u.rst = true := hrst
    obtain ⟨r, v, rfl⟩ | ⟨heard, rfl⟩ | rfl | rfl | rfl | rfl | rfl | ⟨b, rfl⟩ | ⟨n, rfl⟩ | rfl := hfrozen
    · exact hostWrite_reset r v hu
    iterate 6 · exact unlessReset_reset _ hu
    · exact congrArg Host.Outcome.next (capture_reset b hu)
    iterate 2 · exact unlessReset_reset _ hu
  case reply =>
    rw [step_cons he]
    exact congrArg Host.Outcome.next (deliverReply_reset (s := { s with events := es }) hrst)

end Sys2Proof.Machine
end
